-- ==== Sys2Proof/Word.lean ====
section
/-! DEFINITION. The word types of the block: every field and register is unsigned (00_scope.md R12). -/

namespace Sys2Proof

/-- `u8`: sensor bitmaps, channel and index fields, byte offsets. -/
abbrev Byte := BitVec 8

/-- `u16`: `PWM_W`, the width of period, counter and duty registers (R8). -/
abbrev Half := BitVec 16

/-- `u32`: `BUS_W` and `DISP_W` (R8). -/
abbrev Word := BitVec 32

/-- `u64`: `CMD_W`, one command word (R8, R110). -/
abbrev DWord := BitVec 64

end Sys2Proof
end

