-- ==== Sys2Proof/Config.lean ====
section
/-! DEFINITION. What an implementation fixes (00_scope.md R8), the events of R10, and the one free value
of the model: which event the environment brings next. -/

namespace Sys2Proof

/-- The two PWM channels, `N_PWM = 2` (R3, R8): channel 0 is the motor pair, channel 1 the servo pair. -/
inductive Chan where
  | ch0
  | ch1
deriving DecidableEq, Repr, Inhabited

/-- The two outputs of a channel, `N_OUT = 2` (R8): index 0 = A, index 1 = B. -/
inductive Out where
  | a
  | b
deriving DecidableEq, Repr, Inhabited

/-- The two interrupt outputs of the block (R312). -/
inductive IrqLine where
  | tick
  | bump
deriving DecidableEq, Repr, Inhabited

/-- One event (R10). `hostRead 4 off` is `HostRead(off)` and `hostWrite 4 off v` is `HostWrite(off, v)`, with `off`
the byte distance from `BASE`. A host access carries its width in bytes, so that the accesses R82 does not admit
(another width, a misaligned offset) and those beyond the window can be written down and stopped by name. -/
inductive Event where
  /-- a read of `bytes` bytes by the host at `BASE + off` -/
  | hostRead (bytes off : Nat)
  /-- a write of `bytes` bytes by the host at `BASE + off`; `data` is the word on the 32-bit bus -/
  | hostWrite (bytes off : Nat) (data : Word)
  /-- one counting tick of PWM channel `c` (R153) -/
  | pwmTick (c : Chan)
  /-- one counting tick of the dispatcher (R193) -/
  | dispTick
  /-- one sample of the eight sensor levels (R222) -/
  | sample (lv : Byte)
  /-- the block's reset (R350) -/
  | reset
deriving DecidableEq, Repr, Inhabited

namespace Config

/-- `BASE / 256`, OPEN (R8, D39): nothing in the model fixes it. -/
opaque baseBlock : Nat

/-- `BASE`: the host address of the register window, 256-byte aligned (R8, R85). -/
def base : Nat := 256 * baseBlock

/-- `PWM_TICK_HZ[c]`, OPEN (R8, D40). No rule of the block depends on it (R370). -/
opaque pwmTickHz : Chan → Nat

/-- `DISP_TICK_HZ`, OPEN (R8, D40). No rule of the block depends on it (R370). -/
opaque dispTickHz : Nat

/-- `DEFAULT_RATE_HZ` (R8): the rate the host's init normally requests; not a reset value (R191). -/
def defaultRateHz : Nat := 10

/-- The dispatcher period for the default rate, `DISP_TICK_HZ / 10` (R8, R191, R354 step 4). -/
def defaultDperiod : Nat := dispTickHz / defaultRateHz

/-- `IRQ_PRIO`, OPEN (R314, D16): the line whose handler the host's interrupt controller runs first when both are
asserted. -/
opaque irqPrio : IrqLine

/-- FREE VALUE (R10, R315, U13, U14; log 1): the environment's `n`-th event of its own accord. It has no body: any event
may follow any other, with any sensor levels and any host access. -/
opaque freeEvent : Nat → Event

end Config

end Sys2Proof
end

