-- ==== Sys2Proof/Syntax.lean ====
section
/-! DEFINITION. The instructions: one constructor per row of spec/opcode_table.json, 13 commands
(30_encoding.md R113) and 6 bus accesses (44_host_access.md). -/

namespace Sys2Proof

/-- One row of the opcode table with its operands. `CH` and `IDX` keep the whole 8-bit field of the
command word: a value above 1 decodes, and the command's own rule rejects it (R116, R117). -/
inductive Instr where
  /-- `nop`, OP 0x00, format FN (R283). -/
  | nop
  /-- `pwm.init CH, PERIOD, DUTY_A, DUTY_B`, OP 0x10, format FI (R156). -/
  | pwmInit (ch : Byte) (period dutyA dutyB : Half)
  /-- `pwm.update CH, IDX, VALUE`, OP 0x11, format FU (R157). -/
  | pwmUpdate (ch idx : Byte) (value : Half)
  /-- `pwm.stop CH`, OP 0x12, format FC (R158). -/
  | pwmStop (ch : Byte)
  /-- `disp.init DPERIOD`, OP 0x20, format FD (R192). -/
  | dispInit (dperiod : Word)
  /-- `disp.stop`, OP 0x21, format FN (R194). -/
  | dispStop
  /-- `mon.init MASK`, OP 0x30, format FM (R220). -/
  | monInit (mask : Byte)
  /-- `latch.clear`, OP 0x31, format FN (R223). -/
  | latchClear
  /-- `mot.fwd DUTY_L, DUTY_R`, OP 0x40, format FLR (R252). -/
  | motFwd (dutyL dutyR : Half)
  /-- `mot.bwd DUTY_L, DUTY_R`, OP 0x41, format FLR (R253). -/
  | motBwd (dutyL dutyR : Half)
  /-- `mot.left DUTY_L, DUTY_R`, OP 0x42, format FLR (R254). -/
  | motLeft (dutyL dutyR : Half)
  /-- `mot.right DUTY_L, DUTY_R`, OP 0x43, format FLR (R255). -/
  | motRight (dutyL dutyR : Half)
  /-- `mot.stop`, OP 0x44, format FN (R256). -/
  | motStop
  /-- `wr 0x00, v`: store the data into CMD_LO (R280). -/
  | wrCmdLo (v : Word)
  /-- `wr 0x04, v`: store the data into CMD_HI and execute `cmd_hi ++ cmd_lo` (R281). -/
  | wrCmdHi (v : Word)
  /-- `wr 0x0C, v`: write-one-to-clear of IRQ_PEND (R285). -/
  | wrIrqPend (v : Word)
  /-- `wr 0x10, v`: clear the error record (R286). -/
  | wrErr (v : Word)
  /-- `wr off, v` at any other aligned offset: no effect (R287). -/
  | wrIgnored (off : Byte) (v : Word)
  /-- `rd off`: read any aligned offset (R284). -/
  | read (off : Byte)
deriving DecidableEq, Repr

end Sys2Proof
end

