-- ==== Sys2Proof/WellFormed.lean ====
section
/-! DEFINITION. Which terms of `Instr` are instructions of the opcode table. Every command's operands
fill their fields, so a command is always well formed; a bus access must be aligned (20_memory.md R82), and
an ignored write must not be at an offset that an earlier row of the table matches (R287). -/

namespace Sys2Proof

/-- An offset of an admitted access is a multiple of 4 (R82). -/
def aligned (off : Byte) : Bool := off.toNat % 4 == 0

/-- The offsets whose writes have rows of their own: CMD_LO, CMD_HI, IRQ_PEND and ERR. -/
def hasOwnWriteRow (off : Byte) : Bool := off == 0x00 || off == 0x04 || off == 0x0C || off == 0x10

/-- The term is an instruction of the table. -/
def Instr.wellFormed (i : Instr) : Bool :=
  match i with
  | .nop | .pwmInit _ _ _ _ | .pwmUpdate _ _ _ | .pwmStop _ => true
  | .dispInit _ | .dispStop | .monInit _ | .latchClear => true
  | .motFwd _ _ | .motBwd _ _ | .motLeft _ _ | .motRight _ _ | .motStop => true
  | .wrCmdLo _ | .wrCmdHi _ | .wrIrqPend _ | .wrErr _ => true
  | .wrIgnored off _ => aligned off && !hasOwnWriteRow off
  | .read off => aligned off

end Sys2Proof
end

