-- ==== Sys2Proof/Decode.lean ====
section
/-! DEFINITION. The command decoder of 30_encoding.md (R110 to R117), the access decoder of the BUS rows of
opcode_table.json, and the encoder written from the same tables. -/

namespace Sys2Proof

/-- The reject codes, in the order of the checks (60_exceptions.md R311). -/
inductive Reject where
  /-- OP is not in the opcode map (R115). -/
  | badOp
  /-- A reserved bit of the format is 1 (R114). -/
  | rsvd
  /-- CH > 1 (R116). -/
  | badCh
  /-- IDX > 1 (R116). -/
  | badIdx
  /-- PERIOD = 0 (R116). -/
  | zeroPeriod
  /-- DPERIOD = 0 (R116). -/
  | zeroDperiod
deriving DecidableEq, Repr

/-- The code a reject records (R311). -/
def Reject.code (r : Reject) : BitVec 4 :=
  match r with
  | .badOp => 1
  | .rsvd => 2
  | .badCh => 3
  | .badIdx => 4
  | .zeroPeriod => 5
  | .zeroDperiod => 6

/-- Why a code is no instruction. -/
inductive DecodeError where
  /-- a command word that the decoder rejects: E_BAD_OP or E_RSVD (R117) -/
  | reject (r : Reject)
  /-- an access word with an offset that is no multiple of 4: no row of the table matches it (R82) -/
  | notAdmitted
deriving DecidableEq, Repr

/-- The seven command formats (R110). -/
inductive Format where
  | fi
  | fu
  | fc
  | fd
  | fm
  | flr
  | fn
deriving DecidableEq, Repr

/-- The reserved-bit mask of a format (R114). -/
def rsvMask (f : Format) : DWord :=
  match f with
  | .fi => 0x0000000000000000
  | .fu => 0x000000FFFFFF0000
  | .fc => 0x0000FFFFFFFFFFFF
  | .fd => 0x00FFFFFF00000000
  | .fm => 0x00FFFFFFFFFFFF00
  | .flr => 0x00FFFFFF00000000
  | .fn => 0x00FFFFFFFFFFFFFF

/-! The fields of a command word, by the bit positions of R110. -/

/-- `OP = cmd[63:56]`. -/
def fieldOp (cmd : DWord) : Byte := cmd.extractLsb' 56 8
/-- `CH = cmd[55:48]`. -/
def fieldCh (cmd : DWord) : Byte := cmd.extractLsb' 48 8
/-- `PERIOD = cmd[47:32]`. -/
def fieldPeriod (cmd : DWord) : Half := cmd.extractLsb' 32 16
/-- `IDX = cmd[47:40]`. -/
def fieldIdx (cmd : DWord) : Byte := cmd.extractLsb' 40 8
/-- `DUTY_A = DUTY_L = cmd[31:16]`. -/
def fieldHigh (cmd : DWord) : Half := cmd.extractLsb' 16 16
/-- `DUTY_B = DUTY_R = VALUE = cmd[15:0]`. -/
def fieldLow (cmd : DWord) : Half := cmd.extractLsb' 0 16
/-- `DPERIOD = cmd[31:0]`. -/
def fieldDperiod (cmd : DWord) : Word := cmd.extractLsb' 0 32
/-- `MASK = cmd[7:0]`. -/
def fieldMask (cmd : DWord) : Byte := cmd.extractLsb' 0 8

/-- The opcode map (R113): the format of an opcode, and the command that its fields in `cmd` make. -/
def opcodeRow (op : Byte) (cmd : DWord) : Option (Format × Instr) :=
  match op.toNat with
  | 0x00 => some (.fn, .nop)
  | 0x10 => some (.fi, .pwmInit (fieldCh cmd) (fieldPeriod cmd) (fieldHigh cmd) (fieldLow cmd))
  | 0x11 => some (.fu, .pwmUpdate (fieldCh cmd) (fieldIdx cmd) (fieldLow cmd))
  | 0x12 => some (.fc, .pwmStop (fieldCh cmd))
  | 0x20 => some (.fd, .dispInit (fieldDperiod cmd))
  | 0x21 => some (.fn, .dispStop)
  | 0x30 => some (.fm, .monInit (fieldMask cmd))
  | 0x31 => some (.fn, .latchClear)
  | 0x40 => some (.flr, .motFwd (fieldHigh cmd) (fieldLow cmd))
  | 0x41 => some (.flr, .motBwd (fieldHigh cmd) (fieldLow cmd))
  | 0x42 => some (.flr, .motLeft (fieldHigh cmd) (fieldLow cmd))
  | 0x43 => some (.flr, .motRight (fieldHigh cmd) (fieldLow cmd))
  | 0x44 => some (.fn, .motStop)
  | _ => none

/-- `decode(cmd)` of R117, total on all 2^64 command words. -/
def decodeCommand (cmd : DWord) : Except Reject Instr :=
  match opcodeRow (fieldOp cmd) cmd with
  | none => .error .badOp
  | some (f, i) => if cmd &&& rsvMask f = 0#64 then .ok i else .error .rsvd

/-- `off = A[7:0]` of the access word. -/
def fieldOff (a : BitVec 9) : Byte := a.extractLsb' 0 8

/-- The access decoder: the BUS rows of opcode_table.json, tried in order, the first match wins. -/
def decodeAccess (a : BitVec 9) (data : Word) : Except DecodeError Instr :=
  if a &&& 0x1FF = 0x100 then .ok (.wrCmdLo data)
  else if a &&& 0x1FF = 0x104 then .ok (.wrCmdHi data)
  else if a &&& 0x1FF = 0x10C then .ok (.wrIrqPend data)
  else if a &&& 0x1FF = 0x110 then .ok (.wrErr data)
  else if a &&& 0x103 = 0x100 then .ok (.wrIgnored (fieldOff a) data)
  else if a &&& 0x103 = 0x000 then .ok (.read (fieldOff a))
  else .error .notAdmitted

/-- An instruction as the hardware carries it: a 64-bit command word (R110), or an access word `A = W << 8 | off`
with the 32 data bits of the bus (44_host_access.md; the data of a read is 0 here and means nothing). -/
inductive Code where
  | command (cmd : DWord)
  | access (a : BitVec 9) (data : Word)
deriving DecidableEq, Repr

/-- The decoder, total on every code. -/
def decode (c : Code) : Except DecodeError Instr :=
  match c with
  | .command cmd =>
    match decodeCommand cmd with
    | .ok i => .ok i
    | .error r => .error (.reject r)
  | .access a data => decodeAccess a data

/-- The access word `W << 8 | off`. -/
def accessWord (write : Bool) (off : Byte) : BitVec 9 := (BitVec.ofBool write).setWidth 9 <<< 8 ||| off.setWidth 9

/-- A field of `n` bits with its least significant bit at `lsb` of the command word. -/
def put {n : Nat} (lsb : Nat) (v : BitVec n) : DWord := v.setWidth 64 <<< lsb

/-! One assembler per format (R110): the fields at their bit positions, reserved bits 0. -/

def wordFI (op ch : Byte) (period a b : Half) : DWord := put 56 op ||| put 48 ch ||| put 32 period ||| put 16 a ||| put 0 b
def wordFU (op ch idx : Byte) (value : Half) : DWord := put 56 op ||| put 48 ch ||| put 40 idx ||| put 0 value
def wordFC (op ch : Byte) : DWord := put 56 op ||| put 48 ch
def wordFD (op : Byte) (dperiod : Word) : DWord := put 56 op ||| put 0 dperiod
def wordFM (op mask : Byte) : DWord := put 56 op ||| put 0 mask
def wordFLR (op : Byte) (l r : Half) : DWord := put 56 op ||| put 16 l ||| put 0 r
def wordFN (op : Byte) : DWord := put 56 op

/-- The encoder: opcodes and formats of R113, access words of 44_host_access.md. -/
def encode (i : Instr) : Code :=
  match i with
  | .nop => .command (wordFN 0x00)
  | .pwmInit ch period a b => .command (wordFI 0x10 ch period a b)
  | .pwmUpdate ch idx value => .command (wordFU 0x11 ch idx value)
  | .pwmStop ch => .command (wordFC 0x12 ch)
  | .dispInit dperiod => .command (wordFD 0x20 dperiod)
  | .dispStop => .command (wordFN 0x21)
  | .monInit mask => .command (wordFM 0x30 mask)
  | .latchClear => .command (wordFN 0x31)
  | .motFwd l r => .command (wordFLR 0x40 l r)
  | .motBwd l r => .command (wordFLR 0x41 l r)
  | .motLeft l r => .command (wordFLR 0x42 l r)
  | .motRight l r => .command (wordFLR 0x43 l r)
  | .motStop => .command (wordFN 0x44)
  | .wrCmdLo v => .access (accessWord true 0x00) v
  | .wrCmdHi v => .access (accessWord true 0x04) v
  | .wrIrqPend v => .access (accessWord true 0x0C) v
  | .wrErr v => .access (accessWord true 0x10) v
  | .wrIgnored off v => .access (accessWord true off) v
  | .read off => .access (accessWord false off) 0

/-- The code of a table row whose bits are `w`: a row of up to 16 bits is an access word (9 bits, its data word 0), a wider
one a command word. `none` where `w` has more bits than the row. -/
def tableCode (nbits w : Nat) : Option Code :=
  if nbits ≤ 16 then
    if w < 2 ^ 9 then some (.access (BitVec.ofNat 9 w) 0) else none
  else if w < 2 ^ 64 then some (.command (BitVec.ofNat 64 w)) else none

/-- The instruction the decoder reads from a table row's bits. -/
def decodeTableWord (nbits w : Nat) : Option Instr :=
  match tableCode nbits w with
  | none => none
  | some c =>
    match decode c with
    | .ok i => some i
    | .error _ => none

end Sys2Proof
end

