-- ==== Sys2Proof/Machine/State.lean ====
section
/-! DEFINITION. The state of the block (10_state.md R32), the environment's side of the model, the reasons a step
can stop, and the state after reset (R350). -/

namespace Sys2Proof.Machine

/-- The duties of a channel's two outputs, index 0 = A and index 1 = B (R150). -/
structure DutyPair where
  a : Half
  b : Half
deriving DecidableEq, Repr

/-- The register file of one PWM channel (R52). -/
structure PwmChannel where
  /-- `period[c]`, in ticks; 0 = never initialised -/
  period : Half
  /-- `cnt[c]`, the up-counter -/
  cnt : Half
  /-- `shadow[c][0..1]`, the duties that commands write -/
  shadow : DutyPair
  /-- `active[c][0..1]`, the duties the outputs compare against -/
  active : DutyPair
  /-- `run[c]` -/
  run : Bool
deriving DecidableEq, Repr

/-- The state: R32's fields, and after them three of the model's own (`busRead`, `inputs`, `drawn`) that belong to the
environment and are no state of the block. -/
structure State where
  /-- `cmd_lo`: command staging, low half (R36) -/
  cmdLo : Word
  /-- `cmd_hi`: command high half, last written (R37) -/
  cmdHi : Word
  /-- `err`: sticky error flag (R310) -/
  err : Bool
  /-- `err_code`: code of the first reject since the last clear (R311) -/
  errCode : BitVec 4
  /-- channel 0, the motor pair -/
  pwm0 : PwmChannel
  /-- channel 1, the servo pair -/
  pwm1 : PwmChannel
  /-- `dperiod`: dispatcher period in dispatcher ticks -/
  dperiod : Word
  /-- `dcnt`: dispatcher up-counter -/
  dcnt : Word
  /-- `drun`: dispatcher running -/
  drun : Bool
  /-- `tick_pend`: tick interrupt pending -/
  tickPend : Bool
  /-- `tick_ovr`: tick overrun, sticky -/
  tickOvr : Bool
  /-- `arm`: armed sensor lines -/
  arm : Byte
  /-- `prev_lv`: sensor levels at the last sample, 1 = high = released -/
  prevLv : Byte
  /-- `latch`: the Collision Latch -/
  latch : Bool
  /-- `bitmap`: last-observed sensor bitmask, bit i = sensor i asserted -/
  bitmap : Byte
  /-- `bump_pend`: collision interrupt pending -/
  bumpPend : Bool
  /-- `dir_l`: left motor direction, false = forward -/
  dirL : Bool
  /-- `dir_r`: right motor direction, false = forward -/
  dirR : Bool
  /-- MODEL'S OWN (log 2): the value the last host read returned to the host (R10) -/
  busRead : Option Word
  /-- MODEL'S OWN (log 1): the events placed from outside, oldest first -/
  inputs : List Event
  /-- MODEL'S OWN (log 1): how many free events have been drawn -/
  drawn : Nat
deriving DecidableEq, Repr

/-- The reasons the machine stops with a fault. -/
inductive Fault where
  /-- Raised by a host access at an offset of 0x100 or more: outside the 256-byte window, which is the whole address
  space of the block (R80). R80 names no fault: that this is one is the model's choice (DEDUCED, log 4). SAFE: the block is not reached, and the model goes no further. -/
  | outsideWindow
deriving DecidableEq, Repr

/-- The reasons the model has no step. -/
inductive Refusal where
  /-- An instruction that has no meaning yet. SAFE: the run stops. No arm of `exec` answers with it. -/
  | notModelled (mnemonic : String)
  /-- Raised by a host access that is not 32 bits wide, or whose offset is no multiple of 4: R82 calls the block's behaviour
  unspecified and says that the model has no step (U10). SAFE: the run stops. -/
  | notWordAccess
  /-- Raised by the ill-formed term `wrIgnored off v` at an offset that an earlier row of the opcode table matches (CMD_LO,
  CMD_HI, IRQ_PEND, ERR): the decoder never gives it. SAFE: the run stops. -/
  | offsetOfAnotherRow
  /-- Raised by `runCommand` for a bus access, which is no command: the command decoder never gives one. SAFE: the
  run stops. -/
  | notACommand
deriving DecidableEq, Repr

/-- The outcome of a meaning. -/
abbrev Result := Host.Outcome State Fault Refusal

/-- A channel after `Reset` (R32). -/
def PwmChannel.reset : PwmChannel where
  period := 0
  cnt := 0
  shadow := ⟨0, 0⟩
  active := ⟨0, 0⟩
  run := false

/-- The machine right after reset: every field of R32 is 0 except `prev_lv = 0xFF` (R350). The three fields of the
environment hold nothing (DESIGN CHOICE, logs 1 and 2). -/
def State.reset : State where
  cmdLo := 0
  cmdHi := 0
  err := false
  errCode := 0
  pwm0 := PwmChannel.reset
  pwm1 := PwmChannel.reset
  dperiod := 0
  dcnt := 0
  drun := false
  tickPend := false
  tickOvr := false
  arm := 0x00
  prevLv := 0xFF
  latch := false
  bitmap := 0x00
  bumpPend := false
  dirL := false
  dirR := false
  busRead := none
  inputs := []
  drawn := 0

end Sys2Proof.Machine
end

