-- ==== Sys2Proof/Machine/Operands.lean ====
section
/-! DEFINITION. The operand forms of the commands: the channel and output selectors (R116), and the clamp that every
duty value goes through (R151). -/

namespace Sys2Proof.Machine

/-- `clamp(v, P) = min(v, P)`, unsigned (R14, R151). -/
def clamp (v p : Half) : Half := if v ≤ p then v else p

/-- The channel a CH field selects; `none` for CH > 1 (R116). -/
def chanOf (ch : Byte) : Option Chan :=
  match ch.toNat with
  | 0 => some .ch0
  | 1 => some .ch1
  | _ => none

/-- The output an IDX field selects, 0 = A and 1 = B; `none` for IDX > 1 (R116, R157). -/
def outOf (idx : Byte) : Option Out :=
  match idx.toNat with
  | 0 => some .a
  | 1 => some .b
  | _ => none

/-- The other channel. -/
def otherChan (c : Chan) : Chan :=
  match c with
  | .ch0 => .ch1
  | .ch1 => .ch0

/-- The other output of a channel. -/
def otherOut (o : Out) : Out :=
  match o with
  | .a => .b
  | .b => .a

end Sys2Proof.Machine
end

