-- ==== Sys2Proof/Machine/Ops.lean ====
section
/-! DEFINITION. The named operations over the state: the registers of a channel, the reject (the block's one
synchronous exception, R310), the motor pair, the event stream and the host's side of the bus. -/

namespace Sys2Proof.Machine

/-! ## Channel registers -/

/-- The duty of one output. -/
def DutyPair.get (d : DutyPair) (o : Out) : Half :=
  match o with
  | .a => d.a
  | .b => d.b

/-- The pair with the duty of one output written. -/
def DutyPair.set (d : DutyPair) (o : Out) (v : Half) : DutyPair :=
  match o with
  | .a => { d with a := v }
  | .b => { d with b := v }

/-- The register file of channel `c` (R52). -/
def State.chan (s : State) (c : Chan) : PwmChannel :=
  match c with
  | .ch0 => s.pwm0
  | .ch1 => s.pwm1

/-- The state with the register file of channel `c` replaced. -/
def State.setChan (s : State) (c : Chan) (p : PwmChannel) : State :=
  match c with
  | .ch0 => { s with pwm0 := p }
  | .ch1 => { s with pwm1 := p }

/-- Write a duty into the shadow of one output, clamped to the channel's period (R151, R152). -/
def PwmChannel.writeShadow (p : PwmChannel) (o : Out) (v : Half) : PwmChannel :=
  { p with shadow := p.shadow.set o (clamp v p.period) }

/-- The channel an accepted PWM_INIT leaves, whatever it held before (R156, R160). -/
def PwmChannel.init (period dutyA dutyB : Half) : PwmChannel where
  period := period
  cnt := 0#16
  shadow := ⟨clamp dutyA period, clamp dutyB period⟩
  active := ⟨clamp dutyA period, clamp dutyB period⟩
  run := true

/-- PWM_STOP: the timer halts and its counter is cleared; the period and the duties are kept (R158). -/
def PwmChannel.stop (p : PwmChannel) : PwmChannel := { p with run := false, cnt := 0#16 }

/-- One counting tick; at the period boundary both shadows become active (R153). -/
def PwmChannel.tick (p : PwmChannel) : PwmChannel :=
  if p.run = false then p
  else if p.cnt = p.period - 1#16 then { p with cnt := 0#16, active := p.shadow }
  else { p with cnt := p.cnt + 1#16 }

/-! ## The reject (taking the block's one exception) -/

/-- `raise Reject(code)`: the error record keeps the first code since the last clear; nothing else changes (R310). The
state given is the one in which the command runs, so that `cmd_hi` keeps the rejected word (R281). -/
def State.reject (s : State) (r : Reject) : State :=
  if s.err then s else { s with err := true, errCode := r.code }

/-- The return from it, `wr 0x10` with bit 0 set: the host clears the record (R286). -/
def State.clearErr (s : State) : State := { s with err := false, errCode := 0#4 }

/-! ## The motor pair -/

/-- Write both duties of channel 0, left to output A and right to output B, each clamped (R251). -/
def State.writeMotorDuties (s : State) (l r : Half) : State :=
  { s with pwm0 := (s.pwm0.writeShadow .a l).writeShadow .b r }

/-- Write both direction bits, `true` = backward (R250). -/
def State.setDirections (s : State) (l r : Bool) : State := { s with dirL := l, dirR := r }

/-! ## The event stream -/

/-- The next event: the oldest one placed from outside, or else the environment's free draw (R10; log 1). -/
def State.nextEvent (s : State) : Event :=
  match s.inputs with
  | e :: _ => e
  | [] => Config.freeEvent s.drawn

/-- The state with that event taken from the stream. -/
def State.dropEvent (s : State) : State :=
  match s.inputs with
  | _ :: es => { s with inputs := es }
  | [] => { s with drawn := s.drawn + 1 }

/-- Place an event in front of the stream. -/
def State.placeEvent (s : State) (e : Event) : State := { s with inputs := e :: s.inputs }

/-! ## The host's side of the bus -/

/-- `MemRead(addr, bytes)` of the host as an event of the block (R14); `none` below the window. -/
def memRead (addr bytes : Nat) : Option Event :=
  if Config.base ≤ addr then some (.hostRead bytes (addr - Config.base)) else none

/-- `MemWrite(addr, bytes, v)` of the host as an event of the block (R14); `none` below the window. -/
def memWrite (addr bytes : Nat) (v : Word) : Option Event :=
  if Config.base ≤ addr then some (.hostWrite bytes (addr - Config.base) v) else none

/-- The host writes that deliver a command word, low half first: the second one executes it (R110, R120). -/
def deliverCommand (cmd : DWord) : List Event :=
  [.hostWrite 4 0x00 (cmd.extractLsb' 0 32), .hostWrite 4 0x04 (cmd.extractLsb' 32 32)]

/-- The host event of an access word: bit 8 says write, bits 7 to 0 are the offset (44_host_access.md). -/
def accessEvent (a : BitVec 9) (data : Word) : Event :=
  if a.getLsbD 8 then .hostWrite 4 (fieldOff a).toNat data else .hostRead 4 (fieldOff a).toNat

/-- The events that run an instruction. -/
def deliver (i : Instr) : List Event :=
  match encode i with
  | .command cmd => deliverCommand cmd
  | .access a data => [accessEvent a data]

end Sys2Proof.Machine
end

