-- ==== Sys2Proof/Machine/Flags.lean ====
section
/-! DEFINITION. The outputs of the block as functions of its state (00_scope.md R11), and the status words made of its
flags (R34, R38 to R40, R50). The block has no arithmetic condition codes (R34). -/

namespace Sys2Proof.Machine

/-- The level of one output of a channel: high iff running and `cnt < active` (R154). -/
def PwmChannel.out (p : PwmChannel) (o : Out) : Bool := p.run && decide (p.cnt < p.active.get o)

/-- `pwm_out[c][i]` (R154). -/
def pwmOut (s : State) (c : Chan) (o : Out) : Bool := (s.chan c).out o

/-- `DIR_L = dir_l` (R250). -/
def dirLOut (s : State) : Bool := s.dirL

/-- `DIR_R = dir_r` (R250). -/
def dirROut (s : State) : Bool := s.dirR

/-- `TICK_IRQ = tick_pend` (R312). -/
def tickIrq (s : State) : Bool := s.tickPend

/-- `BUMP_IRQ = bump_pend` (R312). -/
def bumpIrq (s : State) : Bool := s.bumpPend

/-- The line whose handler the host runs first (R315 a): the open parameter decides when both are asserted. -/
def irqFirst (s : State) : Option IrqLine :=
  match tickIrq s, bumpIrq s with
  | true, true => some Config.irqPrio
  | true, false => some .tick
  | false, true => some .bump
  | false, false => none

/-- STATUS: `err<<4 | latch<<3 | drun<<2 | run[1]<<1 | run[0]` (R38). -/
def statusWord (s : State) : Word :=
  (BitVec.ofBool s.err ++ BitVec.ofBool s.latch ++ BitVec.ofBool s.drun ++ BitVec.ofBool s.pwm1.run
    ++ BitVec.ofBool s.pwm0.run).setWidth 32

/-- IRQ_PEND: `tick_ovr<<2 | bump_pend<<1 | tick_pend` (R39). -/
def irqPendWord (s : State) : Word :=
  (BitVec.ofBool s.tickOvr ++ BitVec.ofBool s.bumpPend ++ BitVec.ofBool s.tickPend).setWidth 32

/-- ERR: `err_code<<4 | err`, bits 3 to 1 read 0 (R40). -/
def errWord (s : State) : Word := (s.errCode ++ 0#3 ++ BitVec.ofBool s.err).setWidth 32

/-- BITMAP: `latch<<8 | bitmap` (R41). -/
def bitmapWord (s : State) : Word := (BitVec.ofBool s.latch ++ s.bitmap).setWidth 32

/-- OUTPUTS: the read-back of the output pins (R50). -/
def outputsWord (s : State) : Word :=
  (BitVec.ofBool (bumpIrq s) ++ BitVec.ofBool (tickIrq s) ++ BitVec.ofBool (dirROut s) ++ BitVec.ofBool (dirLOut s)
    ++ BitVec.ofBool (pwmOut s .ch1 .b) ++ BitVec.ofBool (pwmOut s .ch1 .a)
    ++ BitVec.ofBool (pwmOut s .ch0 .b) ++ BitVec.ofBool (pwmOut s .ch0 .a)).setWidth 32

/-- A pair of duties as one word, B in the high half (R46, R47). -/
def dutyWord (d : DutyPair) : Word := d.b ++ d.a

/-- `read(off)` (R284): the register map of R35; offsets 0x4C to 0xFC read 0 (R51). -/
def readReg (s : State) (off : Byte) : Word :=
  match off.toNat with
  | 0x00 => s.cmdLo
  | 0x04 => s.cmdHi
  | 0x08 => statusWord s
  | 0x0C => irqPendWord s
  | 0x10 => errWord s
  | 0x14 => bitmapWord s
  | 0x18 => s.prevLv.setWidth 32
  | 0x1C => s.arm.setWidth 32
  | 0x20 => s.pwm0.period.setWidth 32
  | 0x24 => s.pwm0.cnt.setWidth 32
  | 0x28 => dutyWord s.pwm0.shadow
  | 0x2C => dutyWord s.pwm0.active
  | 0x30 => s.pwm1.period.setWidth 32
  | 0x34 => s.pwm1.cnt.setWidth 32
  | 0x38 => dutyWord s.pwm1.shadow
  | 0x3C => dutyWord s.pwm1.active
  | 0x40 => s.dperiod
  | 0x44 => s.dcnt
  | 0x48 => outputsWord s
  | _ => 0

end Sys2Proof.Machine
end

