-- ==== Sys2Proof/Machine/Collision.lean ====
section
/-! DEFINITION. The commands of the edge-triggered collision latch (42_collision.md) and its sample. -/

namespace Sys2Proof.Machine

/-- `mon.init MASK` (R220): it touches neither the latch nor its record. -/
def execMonInit (mask : Byte) (s : State) : Result := .next { s with arm := mask }

/-- `latch.clear` (R223): `bitmap` and `bump_pend` are kept. -/
def execLatchClear (s : State) : Result := .next { s with latch := false }

/-- The lines that went from high to low between two samples (R221, R222). -/
def falls (prevLv lv : Byte) : Byte := prevLv &&& ~~~lv

/-- `Sample(lv)` (R222): the first falling edge of an armed line sets the latch and captures all eight lines (R228). -/
def onSample (lv : Byte) (s : State) : State :=
  if s.latch = false ∧ falls s.prevLv lv &&& s.arm ≠ 0#8 then
    { s with prevLv := lv, latch := true, bitmap := ~~~lv, bumpPend := true }
  else { s with prevLv := lv }

end Sys2Proof.Machine
end

