-- ==== Sys2Proof/Machine/Dispatcher.lean ====
section
/-! DEFINITION. The commands of the periodic task dispatcher (41_dispatcher.md) and its tick. -/

namespace Sys2Proof.Machine

/-- `disp.init DPERIOD` (R192). -/
def execDispInit (dperiod : Word) (s : State) : Result :=
  if dperiod = 0#32 then .next (s.reject .zeroDperiod)
  else .next { s with dperiod := dperiod, dcnt := 0#32, drun := true, tickPend := false, tickOvr := false }

/-- `disp.stop` (R194): a pending tick is withdrawn and `dperiod` is kept. -/
def execDispStop (s : State) : Result :=
  .next { s with drun := false, dcnt := 0#32, tickPend := false, tickOvr := false }

/-- `DispTick` (R193): a wrap while a tick is pending sets the overrun bit. -/
def onDispTick (s : State) : State :=
  if s.drun = false then s
  else if s.dcnt = s.dperiod - 1#32 then
    { s with dcnt := 0#32, tickOvr := s.tickOvr || s.tickPend, tickPend := true }
  else { s with dcnt := s.dcnt + 1#32 }

end Sys2Proof.Machine
end

