-- ==== Sys2Proof/Machine/Motor.lean ====
section
/-! DEFINITION. The commands of the motor command-to-duty encoder (43_motor.md R252 to R257). -/

namespace Sys2Proof.Machine

/-- `mot.fwd DUTY_L, DUTY_R` (R252): both sides forward. -/
def execMotFwd (l r : Half) (s : State) : Result := .next ((s.setDirections false false).writeMotorDuties l r)

/-- `mot.bwd DUTY_L, DUTY_R` (R253): both sides backward. -/
def execMotBwd (l r : Half) (s : State) : Result := .next ((s.setDirections true true).writeMotorDuties l r)

/-- `mot.left DUTY_L, DUTY_R` (R254): the left side reversed. -/
def execMotLeft (l r : Half) (s : State) : Result := .next ((s.setDirections true false).writeMotorDuties l r)

/-- `mot.right DUTY_L, DUTY_R` (R255): the right side reversed. -/
def execMotRight (l r : Half) (s : State) : Result := .next ((s.setDirections false true).writeMotorDuties l r)

/-- `mot.stop` (R256): both duties 0; the directions are kept and the timer runs on. -/
def execMotStop (s : State) : Result := .next (s.writeMotorDuties 0#16 0#16)

end Sys2Proof.Machine
end

