-- ==== Sys2Proof/Machine/Pwm.lean ====
section
/-! DEFINITION. The commands of the PWM channel driver (40_pwm.md) and the tick of a channel. -/

namespace Sys2Proof.Machine

/-- `pwm.init CH, PERIOD, DUTY_A, DUTY_B` (R156): CH is checked before PERIOD (R311). -/
def execPwmInit (ch : Byte) (period dutyA dutyB : Half) (s : State) : Result :=
  match chanOf ch with
  | none => .next (s.reject .badCh)
  | some c =>
    if period = 0#16 then .next (s.reject .zeroPeriod)
    else .next (s.setChan c (PwmChannel.init period dutyA dutyB))

/-- `pwm.update CH, IDX, VALUE` (R157): CH is checked before IDX (R311). -/
def execPwmUpdate (ch idx : Byte) (value : Half) (s : State) : Result :=
  match chanOf ch with
  | none => .next (s.reject .badCh)
  | some c =>
    match outOf idx with
    | none => .next (s.reject .badIdx)
    | some o => .next (s.setChan c ((s.chan c).writeShadow o value))

/-- `pwm.stop CH` (R158). -/
def execPwmStop (ch : Byte) (s : State) : Result :=
  match chanOf ch with
  | none => .next (s.reject .badCh)
  | some c => .next (s.setChan c (s.chan c).stop)

/-- `PwmTick(c)` (R153). -/
def onPwmTick (c : Chan) (s : State) : State := s.setChan c (s.chan c).tick

end Sys2Proof.Machine
end

