-- ==== Sys2Proof/Machine/HostAccess.lean ====
section
/-! DEFINITION. Host register access (44_host_access.md): the dispatch of a committed command, the writes, the read. -/

namespace Sys2Proof.Machine

/-- `nop` (R283). -/
def execNop (s : State) : Result := .next s

/-- The dispatch of a decoded command to its rule (R282). The last six arms are bus accesses, which the command decoder
never gives. -/
def runCommand (i : Instr) (s : State) : Result :=
  match i with
  | .nop => execNop s
  | .pwmInit ch period a b => execPwmInit ch period a b s
  | .pwmUpdate ch idx value => execPwmUpdate ch idx value s
  | .pwmStop ch => execPwmStop ch s
  | .dispInit dperiod => execDispInit dperiod s
  | .dispStop => execDispStop s
  | .monInit mask => execMonInit mask s
  | .latchClear => execLatchClear s
  | .motFwd l r => execMotFwd l r s
  | .motBwd l r => execMotBwd l r s
  | .motLeft l r => execMotLeft l r s
  | .motRight l r => execMotRight l r s
  | .motStop => execMotStop s
  | .wrCmdLo _ => .refused .notACommand
  | .wrCmdHi _ => .refused .notACommand
  | .wrIrqPend _ => .refused .notACommand
  | .wrErr _ => .refused .notACommand
  | .wrIgnored _ _ => .refused .notACommand
  | .read _ => .refused .notACommand

/-- `execute(cmd)` (R282): decode, then the reject or the command's own rule. -/
def execute (cmd : DWord) (s : State) : Result :=
  match decodeCommand cmd with
  | .error r => .next (s.reject r)
  | .ok i => runCommand i s

/-- `wr 0x00, v` (R280). -/
def execWrCmdLo (v : Word) (s : State) : Result := .next { s with cmdLo := v }

/-- `wr 0x04, v` (R281): `cmd_hi` keeps `v` even when the command is rejected. -/
def execWrCmdHi (v : Word) (s : State) : Result := execute (v ++ s.cmdLo) { s with cmdHi := v }

/-- `wr 0x0C, v` (R285): a 1 clears its flag, a 0 leaves it alone, bits 31 to 3 are ignored. -/
def execWrIrqPend (v : Word) (s : State) : Result :=
  .next { s with
    tickPend := s.tickPend && !v.getLsbD 0
    bumpPend := s.bumpPend && !v.getLsbD 1
    tickOvr := s.tickOvr && !v.getLsbD 2 }

/-- `wr 0x10, v` (R286): only bit 0 matters. -/
def execWrErr (v : Word) (s : State) : Result := .next (if v.getLsbD 0 then s.clearErr else s)

/-- `wr off, v` at any other aligned offset (R287): no change. -/
def execWrIgnored (off : Byte) (_v : Word) (s : State) : Result :=
  if aligned off = false then .refused .notWordAccess
  else if hasOwnWriteRow off then .refused .offsetOfAnotherRow
  else .next s

/-- `rd off` (R284): it returns the register as it stood before the event and changes nothing of the block; an access
that is not aligned has no step (R82). -/
def execRead (off : Byte) (s : State) : Result :=
  if aligned off = false then .refused .notWordAccess
  else .next { s with busRead := some (readReg s off) }

end Sys2Proof.Machine
end

