-- ==== Sys2Proof/Machine/Dispatch.lean ====
section
/-! DEFINITION. One arm per constructor of `Instr`, each one direct call of the instruction's meaning. -/

namespace Sys2Proof.Machine

/-- What an instruction does in a state. -/
def exec (i : Instr) (s : State) : Host.Outcome State Fault Refusal :=
  match i with
  | .nop => Sys2Proof.Machine.execNop s
  | .pwmInit ch period dutyA dutyB => Sys2Proof.Machine.execPwmInit ch period dutyA dutyB s
  | .pwmUpdate ch idx value => Sys2Proof.Machine.execPwmUpdate ch idx value s
  | .pwmStop ch => Sys2Proof.Machine.execPwmStop ch s
  | .dispInit dperiod => Sys2Proof.Machine.execDispInit dperiod s
  | .dispStop => Sys2Proof.Machine.execDispStop s
  | .monInit mask => Sys2Proof.Machine.execMonInit mask s
  | .latchClear => Sys2Proof.Machine.execLatchClear s
  | .motFwd dutyL dutyR => Sys2Proof.Machine.execMotFwd dutyL dutyR s
  | .motBwd dutyL dutyR => Sys2Proof.Machine.execMotBwd dutyL dutyR s
  | .motLeft dutyL dutyR => Sys2Proof.Machine.execMotLeft dutyL dutyR s
  | .motRight dutyL dutyR => Sys2Proof.Machine.execMotRight dutyL dutyR s
  | .motStop => Sys2Proof.Machine.execMotStop s
  | .wrCmdLo v => Sys2Proof.Machine.execWrCmdLo v s
  | .wrCmdHi v => Sys2Proof.Machine.execWrCmdHi v s
  | .wrIrqPend v => Sys2Proof.Machine.execWrIrqPend v s
  | .wrErr v => Sys2Proof.Machine.execWrErr v s
  | .wrIgnored off v => Sys2Proof.Machine.execWrIgnored off v s
  | .read off => Sys2Proof.Machine.execRead off s

end Sys2Proof.Machine
end

