-- ==== Sys2Proof/Machine/Events.lean ====
section
/-! DEFINITION. What one event does (00_scope.md R10): a host access is decoded by the BUS rows of the opcode table and
executed; a tick, a sample and the reset act by their own rules. -/

namespace Sys2Proof.Machine

/-- `Reset` (R350): every field of R32 takes its reset value. The environment's side of the model is not the block's and
is kept. -/
def onReset (s : State) : State :=
  { State.reset with busRead := s.busRead, inputs := s.inputs, drawn := s.drawn }

/-- Why a host access stops before it is decoded: it lies beyond the window (R80; the fault is the model's choice, log 4), or it is not 32 bits wide (R82). -/
def runAccess (write : Bool) (bytes off : Nat) (data : Word) (s : State) : Result :=
  if 0x100 ≤ off then .fault .outsideWindow
  else if bytes ≠ 4 then .refused .notWordAccess
  else
    match decodeAccess (accessWord write (BitVec.ofNat 8 off)) data with
    | .ok i => exec i s
    | .error _ => .refused .notWordAccess

/-- One event, from the state in which it happens (R10, R15). -/
def runEvent (e : Event) (s : State) : Result :=
  match e with
  | .hostRead bytes off => runAccess false bytes off 0 s
  | .hostWrite bytes off data => runAccess true bytes off data s
  | .pwmTick c => .next (onPwmTick c s)
  | .dispTick => .next (onDispTick s)
  | .sample lv => .next (onSample lv s)
  | .reset => .next (onReset s)

/-- The state ready for the code `c` as its next instruction: an access is the next event; for a command CMD_LO holds
the low half and the next event is the CMD_HI write of the high half, which executes it (R110, R281). -/
def placeCode (c : Code) (s : State) : State :=
  match c with
  | .command cmd => ({ s with cmdLo := cmd.extractLsb' 0 32 }).placeEvent (.hostWrite 4 0x04 (cmd.extractLsb' 32 32))
  | .access a data => s.placeEvent (accessEvent a data)

end Sys2Proof.Machine
end

