-- ==== Sys2Proof/Machine/Step.lean ====
section
/-! DEFINITION. One step: take the next event from the stream and run it. -/

namespace Sys2Proof.Machine

/-- One step is exactly one event (R10). -/
def step (s : State) : Host.Outcome State Fault Refusal := runEvent s.nextEvent s.dropEvent

/-- The state in which the next step runs the opcode-table row whose bits are `w` (log 7). Bits that make no code of the
row leave the state as it is. -/
def State.withFetchWord (s : State) (nbits w : Nat) : State :=
  match tableCode nbits w with
  | none => s
  | some c => placeCode c s

end Sys2Proof.Machine
end

