-- ==== Sys2Proof/Safety.lean ====
section
/-! DEFINITION. The terms claims are stated in: the invariants of R33, runs of events, the tables of the spec that a
claim is held against, and frames. -/

namespace Sys2Proof.Machine

/-! ## Outcomes and runs -/

/-- The next state of an outcome, if it is one. -/
def nextOf (r : Result) : Option State :=
  match r with
  | .next s => some s
  | .fault _ => none
  | .refused _ => none

/-- A list of events, run in the order written (30_encoding.md R121), stopping at the first stop. -/
def runEvents (es : List Event) (s : State) : Result :=
  match es with
  | [] => .next s
  | e :: rest =>
    match runEvent e s with
    | .next t => runEvents rest t
    | .fault f => .fault f
    | .refused r => .refused r

/-- A host access that R82 admits: 32 bits wide, aligned, in the window. Every other event is admitted as it is. -/
def eventAdmitted (e : Event) : Bool :=
  match e with
  | .hostRead bytes off => bytes == 4 && off % 4 == 0 && decide (off < 0x100)
  | .hostWrite bytes off _ => bytes == 4 && off % 4 == 0 && decide (off < 0x100)
  | .pwmTick _ => true
  | .dispTick => true
  | .sample _ => true
  | .reset => true

/-! ## Invariants (R33) -/

/-- I1, I2 and I3 of one channel. -/
abbrev ChanInv (p : PwmChannel) : Prop :=
  (p.shadow.a ≤ p.period ∧ p.shadow.b ≤ p.period ∧ p.active.a ≤ p.period ∧ p.active.b ≤ p.period)
  ∧ (p.run = true → 1 ≤ p.period.toNat ∧ p.cnt < p.period)
  ∧ (p.run = false → p.cnt = 0#16)

/-- I4 and I5. -/
abbrev DispInv (s : State) : Prop :=
  (s.drun = true → 1 ≤ s.dperiod.toNat ∧ s.dcnt < s.dperiod)
  ∧ (s.drun = false → s.dcnt = 0#32 ∧ s.tickPend = false ∧ s.tickOvr = false)

/-- The state invariants of R33 (I6 states nothing, I7 is about one step). -/
abbrev Inv (s : State) : Prop := ChanInv s.pwm0 ∧ ChanInv s.pwm1 ∧ DispInv s

/-- The error record: no code without the flag, and with it one of the codes 1 to 6 (R311). -/
abbrev ErrInv (s : State) : Prop :=
  (s.err = false → s.errCode = 0#4) ∧ (s.err = true → 1 ≤ s.errCode.toNat ∧ s.errCode.toNat ≤ 6)

/-! ## Operand fields and frames -/

/-- The CH field that names a channel. -/
def chanField (c : Chan) : Byte :=
  match c with
  | .ch0 => 0
  | .ch1 => 1

/-- The IDX field that names an output. -/
def outField (o : Out) : Byte :=
  match o with
  | .a => 0
  | .b => 1

/-- Frame: nothing but the two channel register files differs. -/
def OnlyChannelsDiffer (s t : State) : Prop := t = { s with pwm0 := t.pwm0, pwm1 := t.pwm1 }

/-- Frame: nothing but the register file of channel `c` differs. -/
def OnlyChannelDiffers (c : Chan) (s t : State) : Prop :=
  OnlyChannelsDiffer s t ∧ t.chan (otherChan c) = s.chan (otherChan c)

/-- What the error record is after a reject with code `n`: the first code since the last clear is kept (R310). -/
def withReject (n : Nat) (s : State) : State :=
  { s with err := true, errCode := if s.err then s.errCode else BitVec.ofNat 4 n }

/-- A motor command leaves these directions and these duties, and changes nothing else (R257). -/
def MotorLeaves (s t : State) (dirL dirR : Bool) (l r : Half) : Prop :=
  t.dirL = dirL ∧ t.dirR = dirR
  ∧ t.pwm0.shadow.a.toNat = min l.toNat s.pwm0.period.toNat
  ∧ t.pwm0.shadow.b.toNat = min r.toNat s.pwm0.period.toNat
  ∧ t = { s with dirL := t.dirL, dirR := t.dirR, pwm0 := { s.pwm0 with shadow := t.pwm0.shadow } }

/-! ## The tables of the spec -/

/-- The opcode map of R113 with the reserved mask of each opcode's format (R114). -/
def opcodeMasks : List (Nat × DWord) :=
  [(0x00, 0x00FFFFFFFFFFFFFF), (0x10, 0x0000000000000000), (0x11, 0x000000FFFFFF0000), (0x12, 0x0000FFFFFFFFFFFF),
   (0x20, 0x00FFFFFF00000000), (0x21, 0x00FFFFFFFFFFFFFF), (0x30, 0x00FFFFFFFFFFFF00), (0x31, 0x00FFFFFFFFFFFFFF),
   (0x40, 0x00FFFFFF00000000), (0x41, 0x00FFFFFF00000000), (0x42, 0x00FFFFFF00000000), (0x43, 0x00FFFFFF00000000),
   (0x44, 0x00FFFFFFFFFFFFFF)]

/-- The code of the first check of R311 that a command word fails, 0 when it fails none. -/
def firstFailure (w : DWord) : Nat :=
  let op := w.toNat / 2 ^ 56
  match opcodeMasks.lookup op with
  | none => 1
  | some mask =>
    if w &&& mask ≠ 0#64 then 2
    else if (op = 0x10 ∨ op = 0x11 ∨ op = 0x12) ∧ 1 < w.toNat / 2 ^ 48 % 2 ^ 8 then 3
    else if op = 0x11 ∧ 1 < w.toNat / 2 ^ 40 % 2 ^ 8 then 4
    else if op = 0x10 ∧ w.toNat / 2 ^ 32 % 2 ^ 16 = 0 then 5
    else if op = 0x20 ∧ w.toNat % 2 ^ 32 = 0 then 6
    else 0

/-- One bit as a number. -/
def bit (b : Bool) : Nat := if b then 1 else 0

/-- The value of the register at an offset, as a number, from the tables of R36 to R51. -/
def registerValue (s : State) (off : Nat) : Nat :=
  match off with
  | 0x00 => s.cmdLo.toNat
  | 0x04 => s.cmdHi.toNat
  | 0x08 => bit s.pwm0.run + 2 * bit s.pwm1.run + 4 * bit s.drun + 8 * bit s.latch + 16 * bit s.err
  | 0x0C => bit s.tickPend + 2 * bit s.bumpPend + 4 * bit s.tickOvr
  | 0x10 => bit s.err + 16 * s.errCode.toNat
  | 0x14 => s.bitmap.toNat + 256 * bit s.latch
  | 0x18 => s.prevLv.toNat
  | 0x1C => s.arm.toNat
  | 0x20 => s.pwm0.period.toNat
  | 0x24 => s.pwm0.cnt.toNat
  | 0x28 => s.pwm0.shadow.a.toNat + 65536 * s.pwm0.shadow.b.toNat
  | 0x2C => s.pwm0.active.a.toNat + 65536 * s.pwm0.active.b.toNat
  | 0x30 => s.pwm1.period.toNat
  | 0x34 => s.pwm1.cnt.toNat
  | 0x38 => s.pwm1.shadow.a.toNat + 65536 * s.pwm1.shadow.b.toNat
  | 0x3C => s.pwm1.active.a.toNat + 65536 * s.pwm1.active.b.toNat
  | 0x40 => s.dperiod.toNat
  | 0x44 => s.dcnt.toNat
  | 0x48 =>
    bit (s.pwm0.run && decide (s.pwm0.cnt < s.pwm0.active.a)) + 2 * bit (s.pwm0.run && decide (s.pwm0.cnt < s.pwm0.active.b))
      + 4 * bit (s.pwm1.run && decide (s.pwm1.cnt < s.pwm1.active.a))
      + 8 * bit (s.pwm1.run && decide (s.pwm1.cnt < s.pwm1.active.b))
      + 16 * bit s.dirL + 32 * bit s.dirR + 64 * bit s.tickPend + 128 * bit s.bumpPend
  | _ => 0

/-- The next event is the CMD_HI write that commits the command `i` (R281). -/
def Commits (s : State) (i : Instr) : Prop :=
  ∃ v, s.nextEvent = .hostWrite 4 0x04 v ∧ decodeCommand (v ++ s.cmdLo) = .ok i

/-- What R162 excludes before the boundary, as commands: an accepted PWM_INIT or a PWM_STOP of channel `c`, and every command
that writes the shadow of its output `o` (PWM_UPDATE of it; for channel 0 the motor commands, R251). -/
def EndsLatency (c : Chan) (o : Out) (i : Instr) : Prop :=
  (∃ p a b, p ≠ 0#16 ∧ i = .pwmInit (chanField c) p a b)
  ∨ i = .pwmStop (chanField c)
  ∨ (∃ v, i = .pwmUpdate (chanField c) (outField o) v)
  ∨ c = .ch0 ∧ (i = .motStop ∨ ∃ l r, i = .motFwd l r ∨ i = .motBwd l r ∨ i = .motLeft l r ∨ i = .motRight l r)

/-- The run of `es` from `s` has admitted events alone, none of them `Reset` or a commit that ends the latency of R162. -/
def QuietRun (c : Chan) (o : Out) (es : List Event) (s : State) : Prop :=
  match es with
  | [] => True
  | e :: rest =>
    (eventAdmitted e = true ∧ e ≠ .reset ∧ ∀ i, EndsLatency c o i → ¬ Commits (s.placeEvent e) i)
    ∧ ∀ t, runEvent e s = .next t → QuietRun c o rest t

/-- The level of an output after `k` ticks of channel `c` and nothing else. -/
def outAfter (c : Chan) (o : Out) (s : State) (k : Nat) : Bool :=
  match nextOf (runEvents (List.replicate k (.pwmTick c)) s) with
  | some t => pwmOut t c o
  | none => false

/-- In how many of the first `n` counter states from `s` on the output is high, ticking channel `c` alone (R155). -/
def highCount (c : Chan) (o : Out) (s : State) (n : Nat) : Nat := (List.range n).countP (outAfter c o s)

end Sys2Proof.Machine
end

