-- ==== Sys2Proof/Certificates/Slice0/Obligations.lean ====
section
/-! DEFINITION. The statements for the provers, each from a numbered rule of spec/ or derived from several. -/

open Sys2Proof Sys2Proof.Machine

/-! ## Encoding -/

/-- R110, R113, opcode_table.json: every well-formed instruction, with every operand value, is read back from its code. -/
def Obligations.DecodeOfEncodeIsTheInstruction : Prop :=
  ∀ i : Instr, i.wellFormed = true → decode (encode i) = .ok i

/-- R110, R114: a command word that decodes is the encoding of the command it decodes to, so no bit of it is dropped. -/
def Obligations.DecodedCommandWordIsItsEncoding : Prop :=
  ∀ (w : DWord) (i : Instr), decodeCommand w = .ok i → encode i = .command w

/-- R117: the decoder is total. An unlisted opcode is E_BAD_OP, a reserved bit of a listed one is E_RSVD, and every other word
decodes to the command whose fields per R110 are the word's. The opcodes and masks are `opcodeMasks` (R113, R114). -/
def Obligations.CommandDecoderIsTotal : Prop :=
  ∀ w : DWord,
    (opcodeMasks.lookup (w.toNat / 2 ^ 56) = none → decodeCommand w = .error .badOp)
    ∧ ∀ mask, opcodeMasks.lookup (w.toNat / 2 ^ 56) = some mask →
        (w &&& mask ≠ 0#64 → decodeCommand w = .error .rsvd)
        ∧ (w &&& mask = 0#64 → ∃ i, decodeCommand w = .ok i ∧ encode i = .command w)

/-- R122: the source's own commands and their words, `cmd_hi` above `cmd_lo`. -/
def Obligations.WorkedEncodingsDecode : Prop :=
  decode (.command 0x10003A981D4C1D4C) = .ok (.pwmInit 0 15000 7500 7500)
  ∧ decode (.command 0x400000001D4C1D4C) = .ok (.motFwd 7500 7500)
  ∧ decode (.command 0x4100000011941194) = .ok (.motBwd 4500 4500)
  ∧ decode (.command 0x4200000011941194) = .ok (.motLeft 4500 4500)
  ∧ decode (.command 0x4300000011941194) = .ok (.motRight 4500 4500)
  ∧ decode (.command 0x4300000005DC05DC) = .ok (.motRight 1500 1500)
  ∧ decode (.command 0x4400000000000000) = .ok .motStop
  ∧ decode (.command 0x3100000000000000) = .ok .latchClear
  ∧ decode (.command 0x30000000000000FF) = .ok (.monInit 0xFF)
  ∧ decode (.command 0x0000000000000000) = .ok .nop

/-- 44_host_access.md, R82: an access word that decodes gives a well-formed access whose code it is (the data of a read means
nothing), and the words that do not decode are exactly the misaligned ones. -/
def Obligations.AccessDecoderIsExact : Prop :=
  ∀ (a : BitVec 9) (v : Word),
    (a.toNat % 4 ≠ 0 → decodeAccess a v = .error .notAdmitted)
    ∧ (a.toNat % 4 = 0 → ∃ i, decodeAccess a v = .ok i ∧ i.wellFormed = true
        ∧ encode i = .access a (if a.toNat < 256 then 0 else v))

/-! ## Steps and events -/

/-- R10, 44_host_access.md: a step whose next event is an admitted host access runs the instruction its access word decodes to,
in the state without that event. -/
def Obligations.StepRunsTheDecodedAccess : Prop :=
  ∀ (s : State) (es : List Event) (off : Byte) (v : Word) (i : Instr),
    (s.inputs = .hostWrite 4 off.toNat v :: es → decodeAccess (accessWord true off) v = .ok i →
      step s = exec i { s with inputs := es })
    ∧ (s.inputs = .hostRead 4 off.toNat :: es → decodeAccess (accessWord false off) 0 = .ok i →
      step s = exec i { s with inputs := es })

/-- R82 (U10): a host access that is not 32 bits wide or not aligned has no step. That an access beyond the window faults is
the model's choice (log 4, DEDUCED: R80 gives the block the window alone and names no fault). -/
def Obligations.AccessesThatAreNotAdmittedStop : Prop :=
  ∀ (s : State) (es : List Event) (bytes off : Nat) (v : Word),
    (s.inputs = .hostWrite bytes off v :: es ∨ s.inputs = .hostRead bytes off :: es) →
      (0x100 ≤ off → step s = .fault .outsideWindow)
      ∧ (off < 0x100 → (bytes ≠ 4 ∨ off % 4 ≠ 0) → step s = .refused .notWordAccess)

/-- R10, R319: every admitted event, whatever the state, completes: no bus error, no command that stops. -/
def Obligations.AdmittedEventsAlwaysComplete : Prop :=
  ∀ s : State, eventAdmitted s.nextEvent = true → ∃ t, step s = .next t

/-- Model's choice (log 1): events placed from outside run one a step, in the order placed, before any free event. -/
def Obligations.PlacedEventsRunInOrder : Prop :=
  ∀ (s : State) (es rest : List Event),
    Host.Core.run Sys2Proof.core es.length { s with inputs := es ++ rest } = runEvents es { s with inputs := rest }

/-- R110, R120: the two host writes of a command, low half first, run the command with both halves staged. -/
def Obligations.CommandPairRunsTheCommand : Prop :=
  ∀ (s : State) (i : Instr) (cmd : DWord), encode i = .command cmd →
    runEvents [.hostWrite 4 0x00 (cmd.setWidth 32), .hostWrite 4 0x04 ((cmd >>> 32).setWidth 32)] s
      = exec i { s with cmdLo := cmd.setWidth 32, cmdHi := (cmd >>> 32).setWidth 32 }

/-- R350: `Reset` sets every field of the block to its reset value, all 0 except `prev_lv`. That the
environment's own fields (the events placed, the last read value, the draw counter) are kept is the model's choice (log 10,
DESIGN CHOICE), no clause of R350. -/
def Obligations.ResetClearsEveryField : Prop :=
  ∀ (s : State) (es : List Event), s.inputs = .reset :: es →
    step s = .next
      { cmdLo := 0, cmdHi := 0, err := false, errCode := 0
        pwm0 := ⟨0, 0, ⟨0, 0⟩, ⟨0, 0⟩, false⟩, pwm1 := ⟨0, 0, ⟨0, 0⟩, ⟨0, 0⟩, false⟩
        dperiod := 0, dcnt := 0, drun := false, tickPend := false, tickOvr := false
        arm := 0, prevLv := 0xFF, latch := false, bitmap := 0, bumpPend := false, dirL := false, dirR := false
        busRead := s.busRead, inputs := es, drawn := s.drawn }

/-- R351: after `Reset` every output is low, and every register reads 0 except LEVELS, which reads 0xFF. -/
def Obligations.OutputsLowAndRegistersReadAfterReset : Prop :=
  (∀ c o, pwmOut State.reset c o = false)
  ∧ dirLOut State.reset = false ∧ dirROut State.reset = false
  ∧ tickIrq State.reset = false ∧ bumpIrq State.reset = false
  ∧ ∀ off : Byte, aligned off = true → ∃ t, exec (.read off) State.reset = .next t
      ∧ t.busRead = some (if off = 0x18#8 then 0xFF else 0)

/-! ## PWM channels -/

/-- R153: a tick of a running channel counts; at the period boundary it clears the counter and makes both shadows active; a
stopped channel does not count. Premise: I2 of R33, which every step keeps. -/
def Obligations.PwmTickCountsAndReloads : Prop :=
  ∀ (s : State) (es : List Event) (c : Chan), s.inputs = .pwmTick c :: es → ChanInv (s.chan c) →
    ∃ t, step s = .next t ∧ OnlyChannelDiffers c { s with inputs := es } t
      ∧ ((s.chan c).run = false → t.chan c = s.chan c)
      ∧ ((s.chan c).run = true → (s.chan c).cnt.toNat = (s.chan c).period.toNat - 1 →
          t.chan c = { s.chan c with cnt := 0#16, active := (s.chan c).shadow })
      ∧ ((s.chan c).run = true → (s.chan c).cnt.toNat ≠ (s.chan c).period.toNat - 1 →
          (t.chan c).cnt.toNat = (s.chan c).cnt.toNat + 1 ∧ t.chan c = { s.chan c with cnt := (t.chan c).cnt })

/-- R154: an output is high iff its channel runs and `cnt < active`; so a stopped channel drives low, `active = 0` is a constant
low, and `active = period` a constant high while running. -/
def Obligations.OutputLevelFollowsCounter : Prop :=
  ∀ (s : State) (c : Chan) (o : Out), ChanInv (s.chan c) →
    (pwmOut s c o = true ↔ (s.chan c).run = true ∧ (s.chan c).cnt.toNat < ((s.chan c).active.get o).toNat)
    ∧ ((s.chan c).run = false → pwmOut s c o = false)
    ∧ ((s.chan c).active.get o = 0#16 → pwmOut s c o = false)
    ∧ ((s.chan c).run = true → (s.chan c).active.get o = (s.chan c).period → pwmOut s c o = true)

/-- R160: after an accepted `pwm.init c, P, A, B` the channel is exactly `period = P`, `shadow = active = (min(A,P), min(B,P))`,
`cnt = 0`, `run = 1`, whatever it held before; nothing else changes. -/
def Obligations.PwmInitLeavesTheChannelExactly : Prop :=
  ∀ (s : State) (c : Chan) (p a b : Half), p ≠ 0#16 →
    ∃ t, exec (.pwmInit (chanField c) p a b) s = .next t ∧ OnlyChannelDiffers c s t
      ∧ (t.chan c).period = p ∧ (t.chan c).cnt = 0#16 ∧ (t.chan c).run = true
      ∧ (t.chan c).shadow.a.toNat = min a.toNat p.toNat ∧ (t.chan c).shadow.b.toNat = min b.toNat p.toNat
      ∧ (t.chan c).active = (t.chan c).shadow

/-- R157: an accepted `pwm.update` writes the clamped value into one shadow and disturbs neither the other output, nor the
period, nor the active duties, nor the other channel. -/
def Obligations.PwmUpdateWritesOneShadow : Prop :=
  ∀ (s : State) (c : Chan) (o : Out) (v : Half),
    ∃ t, exec (.pwmUpdate (chanField c) (outField o) v) s = .next t ∧ OnlyChannelDiffers c s t
      ∧ ((t.chan c).shadow.get o).toNat = min v.toNat (s.chan c).period.toNat
      ∧ (t.chan c).shadow.get (otherOut o) = (s.chan c).shadow.get (otherOut o)
      ∧ t.chan c = { s.chan c with shadow := (t.chan c).shadow }

/-- R158: `pwm.stop` halts the timer and clears its counter at once; both outputs are low; period, shadow and active are kept. -/
def Obligations.PwmStopHaltsTheChannel : Prop :=
  ∀ (s : State) (c : Chan),
    ∃ t, exec (.pwmStop (chanField c)) s = .next t ∧ OnlyChannelDiffers c s t
      ∧ t.chan c = { s.chan c with run := false, cnt := 0#16 } ∧ ∀ o, pwmOut t c o = false

/-- R156, R157, R158, R311: the field checks of the PWM commands, CH before IDX and before PERIOD; a rejected command changes
the error record and nothing else, and the record keeps the first code. -/
def Obligations.PwmCommandsRejectBadFields : Prop :=
  ∀ (s : State) (ch idx : Byte) (p a b : Half),
    (1 < ch.toNat → exec (.pwmInit ch p a b) s = .next (withReject 3 s)
      ∧ exec (.pwmUpdate ch idx a) s = .next (withReject 3 s) ∧ exec (.pwmStop ch) s = .next (withReject 3 s))
    ∧ (ch.toNat ≤ 1 → 1 < idx.toNat → exec (.pwmUpdate ch idx a) s = .next (withReject 4 s))
    ∧ (ch.toNat ≤ 1 → exec (.pwmInit ch 0#16 a b) s = .next (withReject 5 s))

/-- R155: from `cnt = 0`, one period of ticks takes a running channel through `cnt = 0 .. P-1`; output `o` is high in exactly
`D = active` of those `P` states, and they are the first `D`. -/
def Obligations.HighFractionIsDutyOverPeriod : Prop :=
  ∀ (s : State) (c : Chan) (o : Out), ChanInv (s.chan c) → (s.chan c).run = true → (s.chan c).cnt = 0#16 →
    (∀ k < (s.chan c).period.toNat, ∃ t, runEvents (List.replicate k (.pwmTick c)) s = .next t
      ∧ (t.chan c).cnt.toNat = k ∧ (pwmOut t c o = true ↔ k < ((s.chan c).active.get o).toNat))
    ∧ highCount c o s (s.chan c).period.toNat = ((s.chan c).active.get o).toNat

/-- From R152 and R153: ticks of a running channel alone, from counter value `k`, make the shadow duty active after exactly
`period - k` of them, and not before; that is at least 1 tick and at most `period` ticks. -/
def Obligations.ShadowBecomesActiveAtTheBoundary : Prop :=
  ∀ (s : State) (c : Chan) (o : Out), ChanInv (s.chan c) → (s.chan c).run = true →
    (1 ≤ (s.chan c).period.toNat - (s.chan c).cnt.toNat
      ∧ (s.chan c).period.toNat - (s.chan c).cnt.toNat ≤ (s.chan c).period.toNat)
    ∧ ∀ n ≤ (s.chan c).period.toNat - (s.chan c).cnt.toNat,
        ∃ t, runEvents (List.replicate n (.pwmTick c)) s = .next t
          ∧ (t.chan c).active.get o = if n < (s.chan c).period.toNat - (s.chan c).cnt.toNat
              then (s.chan c).active.get o else (s.chan c).shadow.get o

/-- R162, the latency law: on a running channel at counter value `k`, whose shadow has just been written or holds its value, the
active duty is the old one until the shadow duty becomes active at exactly the `period - k`-th further tick of the channel, at
least 1 and at most `period` ticks later, whatever other events come between, provided `QuietRun`: no accepted PWM_INIT and no
PWM_STOP of the channel and no later write of that shadow (`Reset`, which writes every field by R350, is one). -/
def Obligations.DutyLatencyAmongOtherEvents : Prop :=
  ∀ (s : State) (c : Chan) (o : Out) (es : List Event), ChanInv (s.chan c) → (s.chan c).run = true → QuietRun c o es s →
    (1 ≤ (s.chan c).period.toNat - (s.chan c).cnt.toNat
      ∧ (s.chan c).period.toNat - (s.chan c).cnt.toNat ≤ (s.chan c).period.toNat)
    ∧ (es.count (.pwmTick c) ≤ (s.chan c).period.toNat - (s.chan c).cnt.toNat →
        ∃ t, runEvents es s = .next t
          ∧ (t.chan c).active.get o = if es.count (.pwmTick c) < (s.chan c).period.toNat - (s.chan c).cnt.toNat
              then (s.chan c).active.get o else (s.chan c).shadow.get o)

/-- R54: no step but an accepted `pwm.init` of the channel, or `Reset`, changes a channel's period. -/
def Obligations.OnlyPwmInitWritesThePeriod : Prop :=
  ∀ (s t : State) (c : Chan), step s = .next t → (t.chan c).period ≠ (s.chan c).period →
    s.nextEvent = .reset ∨ ∃ p a b, Commits s (.pwmInit (chanField c) p a b)

/-- R159: while a channel is stopped, its active duties change only at its PWM_INIT (and at `Reset`), its outputs stay low but
for that init, and it stays stopped. -/
def Obligations.StoppedChannelStaysSilent : Prop :=
  ∀ (s t : State) (c : Chan), (s.chan c).run = false → step s = .next t →
    (s.nextEvent = .reset ∨ (∃ p a b, Commits s (.pwmInit (chanField c) p a b)) ∨ (t.chan c).active = (s.chan c).active)
    ∧ ((∃ p a b, Commits s (.pwmInit (chanField c) p a b)) ∨ ((t.chan c).run = false ∧ ∀ o, pwmOut t c o = false))

/-- R150: the channels are independent. A tick or a PWM command of one channel leaves the other as it is, and what it does to
its own channel does not depend on the other's state. -/
def Obligations.ChannelsAreIndependent : Prop :=
  ∀ (s s' : State) (c : Chan) (o : Out) (p a b : Half), s.chan c = s'.chan c →
    (∀ e, e = Event.pwmTick c → ∀ t t', runEvent e s = .next t → runEvent e s' = .next t' →
      t.chan c = t'.chan c ∧ t.chan (otherChan c) = s.chan (otherChan c))
    ∧ (∀ i, i = Instr.pwmInit (chanField c) p a b ∨ i = .pwmUpdate (chanField c) (outField o) a ∨ i = .pwmStop (chanField c) →
      ∃ t t', exec i s = .next t ∧ exec i s' = .next t'
        ∧ t.chan c = t'.chan c ∧ t.chan (otherChan c) = s.chan (otherChan c))

/-! ## Dispatcher -/

/-- R192: an accepted `disp.init` loads the period, restarts the count, drops a pending tick and the overrun; DPERIOD = 0 is
rejected with code 6 and changes the error record only. -/
def Obligations.DispInitRestartsTheDispatcher : Prop :=
  ∀ (s : State) (d : Word),
    (d ≠ 0#32 → exec (.dispInit d) s
      = .next { s with dperiod := d, dcnt := 0#32, drun := true, tickPend := false, tickOvr := false })
    ∧ exec (.dispInit 0#32) s = .next (withReject 6 s)

/-- R194: `disp.stop` halts the dispatcher and withdraws a pending tick; `dperiod` is kept. -/
def Obligations.DispStopWithdrawsThePendingTick : Prop :=
  ∀ s : State, exec .dispStop s = .next { s with drun := false, dcnt := 0#32, tickPend := false, tickOvr := false }

/-- R193: a tick of the running dispatcher counts, or wraps: a wrap sets the pending bit, and the overrun bit when the previous
tick is not yet acknowledged. Premise: I4 of R33. -/
def Obligations.DispTickWrapsAndPends : Prop :=
  ∀ (s : State) (es : List Event), s.inputs = .dispTick :: es → DispInv s →
    (s.drun = false → step s = .next { s with inputs := es })
    ∧ (s.drun = true → s.dcnt.toNat = s.dperiod.toNat - 1 →
        step s = .next { s with inputs := es, dcnt := 0#32, tickPend := true, tickOvr := if s.tickPend then true else s.tickOvr })
    ∧ (s.drun = true → s.dcnt.toNat ≠ s.dperiod.toNat - 1 →
        ∃ t, step s = .next t ∧ t.dcnt.toNat = s.dcnt.toNat + 1 ∧ t = { s with inputs := es, dcnt := t.dcnt })

/-- R195: after an accepted `disp.init P`, with no later DISP_INIT or DISP_STOP (here: ticks and acknowledges in any order), the
wraps happen at exactly the multiples of `P` of the dispatcher ticks since the init, and each wrap sets `tick_pend`. -/
def Obligations.WrapsComeEveryPeriod : Prop :=
  ∀ (s u : State) (d : Word) (es : List Event), d ≠ 0#32 → exec (.dispInit d) s = .next u →
    (∀ e ∈ es, e = .dispTick ∨ ∃ m, e = .hostWrite 4 0x0C m) →
    ∃ t, runEvents es u = .next t ∧ t.dcnt.toNat = es.count .dispTick % d.toNat
      ∧ ∃ t', runEvents (es ++ [.dispTick]) u = .next t'
        ∧ ((es.count .dispTick + 1) % d.toNat = 0 → t'.tickPend = true ∧ t'.dcnt = 0#32)
        ∧ ((es.count .dispTick + 1) % d.toNat ≠ 0 → t'.tickPend = t.tickPend ∧ t'.tickOvr = t.tickOvr)

/-! ## Collision latch -/

/-- R220: `mon.init` loads the arm mask and touches nothing else. -/
def Obligations.MonInitLoadsTheArmMask : Prop :=
  ∀ (s : State) (mask : Byte), exec (.monInit mask) s = .next { s with arm := mask }

/-- R223: `latch.clear` clears the latch; the bitmap and the pending bit are kept. -/
def Obligations.LatchClearKeepsBitmapAndPending : Prop :=
  ∀ s : State, exec .latchClear s = .next { s with latch := false }

/-- R222, R228: a sample always becomes the previous levels; a falling edge of an armed line with the latch clear sets the latch
and the pending bit and captures every low line of the sample, armed or not; any other sample changes nothing more. -/
def Obligations.SampleSetsTheLatchOnAFallingEdge : Prop :=
  ∀ (s : State) (es : List Event) (lv : Byte), s.inputs = .sample lv :: es →
    ∃ t, step s = .next t ∧ t.prevLv = lv
      ∧ ((s.latch = false ∧ ∃ i < 8, s.prevLv.getLsbD i = true ∧ lv.getLsbD i = false ∧ s.arm.getLsbD i = true) →
          t.latch = true ∧ t.bumpPend = true ∧ (∀ i < 8, t.bitmap.getLsbD i = !lv.getLsbD i)
          ∧ t = { s with inputs := es, prevLv := lv, latch := true, bumpPend := true, bitmap := t.bitmap })
      ∧ (¬(s.latch = false ∧ ∃ i < 8, s.prevLv.getLsbD i = true ∧ lv.getLsbD i = false ∧ s.arm.getLsbD i = true) →
          t = { s with inputs := es, prevLv := lv })

/-- R225: while the latch is set the bitmap is constant: no step from a latched state to a latched state changes it. -/
def Obligations.BitmapIsConstantWhileLatched : Prop :=
  ∀ s t : State, s.latch = true → step s = .next t → t.latch = true → t.bitmap = s.bitmap

/-- R224: no number of samples changes the latch, the bitmap or the pending bit of an episode. -/
def Obligations.LaterEdgesOfAnEpisodeAreIgnored : Prop :=
  ∀ (s : State) (lvs : List Byte), s.latch = true →
    ∃ t, runEvents (lvs.map .sample) s = .next t ∧ t = { s with prevLv := lvs.getLastD s.prevLv }

/-- R226: with the latch clear, armed lines that are low and stay low in every sample start no new episode. -/
def Obligations.HeldLinesStartNoEpisode : Prop :=
  ∀ (s : State) (lvs : List Byte), s.latch = false → s.prevLv &&& s.arm = 0#8 → (∀ lv ∈ lvs, lv &&& s.arm = 0#8) →
    ∃ t, runEvents (lvs.map .sample) s = .next t ∧ t = { s with prevLv := lvs.getLastD s.prevLv }

/-- R34, R222, R33 I7: the latch is set by nothing but a sample, in the event that also sets `bump_pend` and captures the
bitmap. -/
def Obligations.LatchIsSetOnlyByASample : Prop :=
  ∀ s t : State, step s = .next t → s.latch = false → t.latch = true →
    (∃ lv, s.nextEvent = .sample lv ∧ t.bitmap = ~~~lv) ∧ t.bumpPend = true

/-- R34, R223: the latch is cleared by nothing but a committed `latch.clear` (and by `Reset`). -/
def Obligations.LatchIsClearedOnlyByLatchClear : Prop :=
  ∀ s t : State, step s = .next t → s.latch = true → t.latch = false →
    s.nextEvent = .reset ∨ Commits s .latchClear

/-! ## Motor encoder -/

/-- R257: the encoder's mapping. Each motor command completes in every state with the directions and clamped duties of the
table, and writes nothing else. -/
def Obligations.MotorCommandsFollowTheTable : Prop :=
  ∀ (s : State) (l r : Half),
    (∃ t, exec (.motFwd l r) s = .next t ∧ MotorLeaves s t false false l r)
    ∧ (∃ t, exec (.motBwd l r) s = .next t ∧ MotorLeaves s t true true l r)
    ∧ (∃ t, exec (.motLeft l r) s = .next t ∧ MotorLeaves s t true false l r)
    ∧ (∃ t, exec (.motRight l r) s = .next t ∧ MotorLeaves s t false true l r)
    ∧ exec .motStop s = .next { s with pwm0 := { s.pwm0 with shadow := ⟨0#16, 0#16⟩ } }

/-- R250, R257: the direction outputs change at nothing but a committed motor command that sets them (and `Reset`). -/
def Obligations.DirectionsChangeOnlyByMotorCommands : Prop :=
  ∀ s t : State, step s = .next t → (dirLOut t ≠ dirLOut s ∨ dirROut t ≠ dirROut s) →
    s.nextEvent = .reset ∨ ∃ l r, Commits s (.motFwd l r) ∨ Commits s (.motBwd l r)
      ∨ Commits s (.motLeft l r) ∨ Commits s (.motRight l r)

/-! ## Host access -/

/-- R283: `nop` is the one legal word with opcode 0; it changes no state; any reserved bit makes E_RSVD; a CMD_HI write of 0 with
`cmd_lo = 0` is a nop. -/
def Obligations.NopChangesNothing : Prop :=
  encode .nop = .command 0 ∧ (∀ s : State, exec .nop s = .next s)
  ∧ (∀ w : DWord, w.toNat / 2 ^ 56 = 0 → decodeCommand w = if w = 0#64 then .ok .nop else .error .rsvd)
  ∧ ∀ s : State, s.cmdLo = 0#32 → exec (.wrCmdHi 0#32) s = .next { s with cmdHi := 0#32 }

/-- R280: a write to offset 0x00 stores the data and executes nothing. -/
def Obligations.WriteCmdLoStoresTheLowHalf : Prop :=
  ∀ (s : State) (v : Word), encode (.wrCmdLo v) = .access 0x100 v ∧ exec (.wrCmdLo v) s = .next { s with cmdLo := v }

/-- R281, R282: a CMD_HI write stores the data and, in the same event, runs the command `cmd_hi ++ cmd_lo`, or rejects it with
no effect but the error record. -/
def Obligations.WriteCmdHiExecutesTheCommand : Prop :=
  ∀ (s : State) (v : Word) (w : DWord), w.toNat = v.toNat * 2 ^ 32 + s.cmdLo.toNat →
    (∀ i, decodeCommand w = .ok i → exec (.wrCmdHi v) s = exec i { s with cmdHi := v })
    ∧ (∀ r, decodeCommand w = .error r → exec (.wrCmdHi v) s = .next (withReject r.code.toNat { s with cmdHi := v }))

/-- R281, R282: a CMD_HI write completes in every state, with `cmd_hi` the data written and `cmd_lo`, the sensor record and the
host's side untouched, whatever the command. -/
def Obligations.WriteCmdHiAlwaysCompletes : Prop :=
  ∀ (s : State) (v : Word), ∃ t, exec (.wrCmdHi v) s = .next t
    ∧ t.cmdHi = v ∧ t.cmdLo = s.cmdLo ∧ t.prevLv = s.prevLv ∧ t.bitmap = s.bitmap ∧ t.bumpPend = s.bumpPend
    ∧ t.busRead = s.busRead ∧ t.inputs = s.inputs ∧ t.drawn = s.drawn

/-- R311: the code of the first failing check is the one recorded (codes 1 to 6 and their causes, read off the word in
`firstFailure`), nothing else is, and the rejected word stays readable in CMD_HI and CMD_LO. -/
def Obligations.FirstFailingCheckIsRecorded : Prop :=
  ∀ (s : State) (v : Word) (w : DWord), w.toNat = v.toNat * 2 ^ 32 + s.cmdLo.toNat →
    (firstFailure w ≠ 0 → exec (.wrCmdHi v) s = .next (withReject (firstFailure w) { s with cmdHi := v }))
    ∧ (firstFailure w = 0 → ∃ t, exec (.wrCmdHi v) s = .next t ∧ t.err = s.err ∧ t.errCode = s.errCode)

/-- R285: a write to IRQ_PEND clears the flags whose bit is 1 and leaves the others; bits 31 to 3 are ignored. -/
def Obligations.WriteIrqPendClearsSelectedFlags : Prop :=
  ∀ (s : State) (v : Word), encode (.wrIrqPend v) = .access 0x10C v
    ∧ exec (.wrIrqPend v) s = .next { s with
        tickPend := if v.toNat % 2 = 1 then false else s.tickPend
        bumpPend := if v.toNat / 2 % 2 = 1 then false else s.bumpPend
        tickOvr := if v.toNat / 4 % 2 = 1 then false else s.tickOvr }

/-- R286: a write to ERR with bit 0 set clears the error record; any other value changes nothing. -/
def Obligations.WriteErrClearsTheRecord : Prop :=
  ∀ (s : State) (v : Word), encode (.wrErr v) = .access 0x110 v
    ∧ (v.toNat % 2 = 1 → exec (.wrErr v) s = .next { s with err := false, errCode := 0#4 })
    ∧ (v.toNat % 2 = 0 → exec (.wrErr v) s = .next s)

/-- R287: a write to a read-only register or an unmapped offset is silently ignored. -/
def Obligations.OtherWritesAreIgnored : Prop :=
  ∀ (s : State) (off : Byte) (v : Word), off.toNat % 4 = 0 → off ≠ 0x00#8 → off ≠ 0x04#8 → off ≠ 0x0C#8 → off ≠ 0x10#8 →
    (encode (.wrIgnored off v) = .access (BitVec.ofNat 9 (0x100 + off.toNat)) v)
    ∧ exec (.wrIgnored off v) s = .next s

/-- R284, R36 to R51: a read of an aligned offset returns the register as it stands before the read and has no side effect;
`registerValue` gives each register's value from its table. -/
def Obligations.ReadReturnsTheRegisterMap : Prop :=
  ∀ (s : State) (off : Byte), off.toNat % 4 = 0 →
    exec (.read off) s = .next { s with busRead := some (BitVec.ofNat 32 (registerValue s off.toNat)) }
    ∧ registerValue s off.toNat < 2 ^ 32 ∧ encode (.read off) = .access (BitVec.ofNat 9 off.toNat) 0

/-- R84: reads have no side effect on the block, and repeating a write to CMD_LO, IRQ_PEND or ERR changes nothing more. -/
def Obligations.RepeatedAccessesAreIdempotent : Prop :=
  ∀ (s t : State) (off : Byte) (v : Word) (i : Instr),
    (i = .read off ∨ i = .wrCmdLo v ∨ i = .wrIrqPend v ∨ i = .wrErr v ∨ i = .wrIgnored off v) →
    exec i s = .next t → exec i t = .next t ∧ (i = .read off → t = { s with busRead := t.busRead })

/-! ## The error record and the interrupt lines -/

/-- R310: once an error is recorded, nothing clears or replaces it but a write to ERR with bit 0 set, or `Reset`. -/
def Obligations.ErrorRecordIsSticky : Prop :=
  ∀ s t : State, s.err = true → step s = .next t →
    (t.err = true ∧ t.errCode = s.errCode) ∨ s.nextEvent = .reset
      ∨ ∃ v : Word, s.nextEvent = .hostWrite 4 0x10 v ∧ v.toNat % 2 = 1

/-- R312, R313: TICK_IRQ is a level that stays asserted until its pending bit is cleared by W1C bit 0, `disp.init`, `disp.stop`
or `Reset`. -/
def Obligations.TickLineStaysUntilCleared : Prop :=
  ∀ s t : State, tickIrq s = true → step s = .next t → tickIrq t = false →
    s.nextEvent = .reset ∨ (∃ v : Word, s.nextEvent = .hostWrite 4 0x0C v ∧ v.toNat % 2 = 1)
      ∨ Commits s .dispStop ∨ ∃ d, d ≠ 0#32 ∧ Commits s (.dispInit d)

/-- R312, R313: BUMP_IRQ is a level that stays asserted until its pending bit is cleared by W1C bit 1 or `Reset`. -/
def Obligations.BumpLineStaysUntilCleared : Prop :=
  ∀ s t : State, bumpIrq s = true → step s = .next t → bumpIrq t = false →
    s.nextEvent = .reset ∨ ∃ v : Word, s.nextEvent = .hostWrite 4 0x0C v ∧ v.toNat / 2 % 2 = 1

/-- R312, R313: each line is raised by its own source alone, TICK_IRQ by a wrap of the running dispatcher and BUMP_IRQ by a
sample, so no event raises both. -/
def Obligations.EachLineHasItsOwnSource : Prop :=
  ∀ s t : State, step s = .next t →
    (tickIrq s = false → tickIrq t = true → s.nextEvent = .dispTick ∧ s.drun = true)
    ∧ (bumpIrq s = false → bumpIrq t = true → ∃ lv, s.nextEvent = .sample lv)

/-! ## Invariants of every step -/

/-- R33 I1 to I5: every step, from every state that meets them, keeps them. -/
def Obligations.EveryStepKeepsTheStateInvariants : Prop :=
  ∀ s t : State, Inv s → step s = .next t → Inv t

/-- R310, R311: every step keeps the error record legal: no code without the flag, and with it one of the codes 1 to 6. -/
def Obligations.EveryStepKeepsTheErrorRecordLegal : Prop :=
  ∀ s t : State, ErrInv s → step s = .next t → ErrInv t

/-- R33, R350: the state after reset meets both invariants. -/
def Obligations.ResetMeetsTheInvariants : Prop := Inv State.reset ∧ ErrInv State.reset
end

