-- ==== Sys2Proof/Laws/Encoding.lean ====
section
/-! SUPPORT. The algebra of command-word fields: what a field placed in a word reads as, and how a word is the
sum of its fields. -/

namespace Sys2Proof

theorem getLsbD_put {n : Nat} (lsb : Nat) (v : BitVec n) (i : Nat) (h : lsb + n ≤ 64) :
    (put lsb v).getLsbD i = (decide (lsb ≤ i) && v.getLsbD (i - lsb)) := by
  unfold put
  simp only [BitVec.getLsbD_shiftLeft, BitVec.getLsbD_setWidth]
  by_cases hi : lsb ≤ i
  · by_cases hv : i - lsb < n
    · have : i < 64 := by omega
      have : i - lsb < 64 := by omega
      simp_all
    · simp [BitVec.getLsbD_of_ge v _ (by omega : n ≤ i - lsb)]
  · simp [hi]

/-- A field read where it was placed. -/
theorem extract_put_same {n : Nat} (lsb : Nat) (v : BitVec n) (h : lsb + n ≤ 64) :
    (put lsb v).extractLsb' lsb n = v := by
  apply BitVec.eq_of_getLsbD_eq
  intro i hi
  rw [BitVec.getLsbD_extractLsb', getLsbD_put lsb v _ h]
  simp [hi]

/-- A field read where another one was placed is 0. -/
theorem extract_put_disjoint {n : Nat} (lsb : Nat) (v : BitVec n) (s m : Nat) (h : lsb + n ≤ 64)
    (hd : lsb + n ≤ s ∨ s + m ≤ lsb) : (put lsb v).extractLsb' s m = 0#m := by
  apply BitVec.eq_of_getLsbD_eq
  intro i hi
  rw [BitVec.getLsbD_extractLsb', getLsbD_put lsb v _ h]
  rcases hd with hd | hd
  · simp [BitVec.getLsbD_of_ge v (s + i - lsb) (by omega)]
  · simp; omega

/-- Fields at disjoint places share no bit. -/
theorem put_and_put {n m : Nat} (k l : Nat) (v : BitVec n) (w : BitVec m) (hv : k + n ≤ 64) (hw : l + m ≤ 64)
    (hd : k + n ≤ l ∨ l + m ≤ k) : put k v &&& put l w = 0 := by
  apply BitVec.eq_of_getLsbD_eq
  intro i hi
  rw [BitVec.getLsbD_and, getLsbD_put k v i hv, getLsbD_put l w i hw]
  by_cases h1 : k ≤ i <;> by_cases h2 : l ≤ i <;> simp [h1, h2]
  intro h3
  rcases hd with hd | hd
  · rw [BitVec.getLsbD_of_ge v (i - k) (by omega)] at h3; simp at h3
  · exact BitVec.getLsbD_of_ge w (i - l) (by omega)

/-- A field masked by ones at its own place. -/
theorem put_and_ones {n : Nat} (k : Nat) (v : BitVec n) (hv : k + n ≤ 64) :
    put k v &&& put k (BitVec.allOnes n) = put k v := by
  apply BitVec.eq_of_getLsbD_eq
  intro i hi
  rw [BitVec.getLsbD_and, getLsbD_put k v i hv, getLsbD_put k _ i hv]
  by_cases h1 : k ≤ i <;> simp [h1]
  intro h3
  exact BitVec.lt_of_getLsbD h3

/-- Masking a word by ones at a place keeps the field there. -/
theorem and_put_ones {n : Nat} (w : DWord) (k : Nat) (hv : k + n ≤ 64) :
    w &&& put k (BitVec.allOnes n) = put k (w.extractLsb' k n) := by
  apply BitVec.eq_of_getLsbD_eq
  intro i hi
  rw [BitVec.getLsbD_and, getLsbD_put k _ i hv, getLsbD_put k _ i hv, BitVec.getLsbD_extractLsb']
  by_cases h1 : k ≤ i
  · simp only [h1, decide_true, Bool.true_and, BitVec.getLsbD_allOnes, show k + (i - k) = i by omega]
    exact Bool.and_comm _ _
  · simp [h1]

/-- A field is two fields, the high part above the low part. -/
theorem put_split {n : Nat} (k a : Nat) (w : DWord) (h : k + a + n ≤ 64) :
    put k (w.extractLsb' k (a + n)) = put (k + a) (w.extractLsb' (k + a) n) ||| put k (w.extractLsb' k a) := by
  apply BitVec.eq_of_getLsbD_eq
  intro i hi
  rw [BitVec.getLsbD_or, getLsbD_put _ _ i (by omega), getLsbD_put _ _ i (by omega), getLsbD_put _ _ i (by omega)]
  simp only [BitVec.getLsbD_extractLsb']
  by_cases h1 : k ≤ i
  · by_cases h2 : k + a ≤ i
    · have e1 : k + (i - k) = i := by omega
      have e2 : k + a + (i - (k + a)) = i := by omega
      have d1 : (i - k < a + n) ↔ (i - (k + a) < n) := by omega
      have d2 : ¬ i - k < a := by omega
      simp [h1, h2, e1, e2, d1, d2]
    · have d1 : i - k < a + n := by omega
      have d2 : i - k < a := by omega
      simp [h1, h2, d1, d2]
  · have h2 : ¬ k + a ≤ i := by omega
    simp [h1, h2]

/-- A word is its one field of 64 bits. -/
theorem put_whole (w : DWord) : put 0 (w.extractLsb' 0 64) = w := by
  apply BitVec.eq_of_getLsbD_eq
  intro i hi
  rw [getLsbD_put 0 _ i (by omega), BitVec.getLsbD_extractLsb']
  simp [hi]

/-- A field of zeros adds nothing. -/
@[simp] theorem put_zero (n k : Nat) : put k (0#n) = 0#64 := by
  simp [put]

/-- Placing a field is injective. -/
theorem put_eq_zero {n : Nat} {k : Nat} {v : BitVec n} (h : k + n ≤ 64) (hz : put k v = 0) : v = 0 := by
  have := extract_put_same k v h
  rw [hz] at this
  rw [← this]; simp

/-! ## What the access rows take (opcode_table.json) -/

@[simp] theorem fieldOff_accessWord (write : Bool) (off : Byte) : fieldOff (accessWord write off) = off := by
  cases write <;> · revert off; decide

end Sys2Proof
end

