-- ==== Sys2Proof/Laws/State.lean ====
section
/-! SUPPORT. One lemma per field per update: what each named update of the state leaves in each field. -/

namespace Sys2Proof.Machine

/-! ### setChan -/

@[simp] theorem setChan_cmdLo (s : State) (c : Chan) (p : PwmChannel) : (s.setChan c p).cmdLo = s.cmdLo := by cases c <;> rfl
@[simp] theorem setChan_cmdHi (s : State) (c : Chan) (p : PwmChannel) : (s.setChan c p).cmdHi = s.cmdHi := by cases c <;> rfl
@[simp] theorem setChan_err (s : State) (c : Chan) (p : PwmChannel) : (s.setChan c p).err = s.err := by cases c <;> rfl
@[simp] theorem setChan_errCode (s : State) (c : Chan) (p : PwmChannel) : (s.setChan c p).errCode = s.errCode := by cases c <;> rfl
@[simp] theorem setChan_dperiod (s : State) (c : Chan) (p : PwmChannel) : (s.setChan c p).dperiod = s.dperiod := by cases c <;> rfl
@[simp] theorem setChan_dcnt (s : State) (c : Chan) (p : PwmChannel) : (s.setChan c p).dcnt = s.dcnt := by cases c <;> rfl
@[simp] theorem setChan_drun (s : State) (c : Chan) (p : PwmChannel) : (s.setChan c p).drun = s.drun := by cases c <;> rfl
@[simp] theorem setChan_tickPend (s : State) (c : Chan) (p : PwmChannel) : (s.setChan c p).tickPend = s.tickPend := by cases c <;> rfl
@[simp] theorem setChan_tickOvr (s : State) (c : Chan) (p : PwmChannel) : (s.setChan c p).tickOvr = s.tickOvr := by cases c <;> rfl
@[simp] theorem setChan_arm (s : State) (c : Chan) (p : PwmChannel) : (s.setChan c p).arm = s.arm := by cases c <;> rfl
@[simp] theorem setChan_prevLv (s : State) (c : Chan) (p : PwmChannel) : (s.setChan c p).prevLv = s.prevLv := by cases c <;> rfl
@[simp] theorem setChan_latch (s : State) (c : Chan) (p : PwmChannel) : (s.setChan c p).latch = s.latch := by cases c <;> rfl
@[simp] theorem setChan_bitmap (s : State) (c : Chan) (p : PwmChannel) : (s.setChan c p).bitmap = s.bitmap := by cases c <;> rfl
@[simp] theorem setChan_bumpPend (s : State) (c : Chan) (p : PwmChannel) : (s.setChan c p).bumpPend = s.bumpPend := by cases c <;> rfl
@[simp] theorem setChan_dirL (s : State) (c : Chan) (p : PwmChannel) : (s.setChan c p).dirL = s.dirL := by cases c <;> rfl
@[simp] theorem setChan_dirR (s : State) (c : Chan) (p : PwmChannel) : (s.setChan c p).dirR = s.dirR := by cases c <;> rfl
@[simp] theorem setChan_busRead (s : State) (c : Chan) (p : PwmChannel) : (s.setChan c p).busRead = s.busRead := by cases c <;> rfl
@[simp] theorem setChan_inputs (s : State) (c : Chan) (p : PwmChannel) : (s.setChan c p).inputs = s.inputs := by cases c <;> rfl
@[simp] theorem setChan_drawn (s : State) (c : Chan) (p : PwmChannel) : (s.setChan c p).drawn = s.drawn := by cases c <;> rfl

@[simp] theorem setChan_ch0_pwm0 (s : State) (p : PwmChannel) : (s.setChan .ch0 p).pwm0 = p := rfl
@[simp] theorem setChan_ch0_pwm1 (s : State) (p : PwmChannel) : (s.setChan .ch0 p).pwm1 = s.pwm1 := rfl
@[simp] theorem setChan_ch1_pwm0 (s : State) (p : PwmChannel) : (s.setChan .ch1 p).pwm0 = s.pwm0 := rfl
@[simp] theorem setChan_ch1_pwm1 (s : State) (p : PwmChannel) : (s.setChan .ch1 p).pwm1 = p := rfl

@[simp] theorem chan_ch0 (s : State) : s.chan .ch0 = s.pwm0 := rfl
@[simp] theorem chan_ch1 (s : State) : s.chan .ch1 = s.pwm1 := rfl

@[simp] theorem chan_setChan_same (s : State) (c : Chan) (p : PwmChannel) : (s.setChan c p).chan c = p := by
  cases c <;> rfl

@[simp] theorem chan_setChan_other (s : State) (c : Chan) (p : PwmChannel) :
    (s.setChan c p).chan (otherChan c) = s.chan (otherChan c) := by
  cases c <;> rfl

/-- Writing a channel changes the two register files at most, and gives the state back by them. -/
theorem setChan_eq (s : State) (c : Chan) (p : PwmChannel) :
    s.setChan c p = { s with pwm0 := (s.setChan c p).pwm0, pwm1 := (s.setChan c p).pwm1 } := by
  cases c <;> rfl

/-! ### reject -/

@[simp] theorem reject_cmdLo (s : State) (r : Reject) : (s.reject r).cmdLo = s.cmdLo := by unfold State.reject; split <;> rfl
@[simp] theorem reject_cmdHi (s : State) (r : Reject) : (s.reject r).cmdHi = s.cmdHi := by unfold State.reject; split <;> rfl
@[simp] theorem reject_err (s : State) (r : Reject) : (s.reject r).err = true := by unfold State.reject; split <;> simp_all
@[simp] theorem reject_errCode (s : State) (r : Reject) : (s.reject r).errCode = if s.err then s.errCode else r.code := by unfold State.reject; split <;> rfl
@[simp] theorem reject_pwm0 (s : State) (r : Reject) : (s.reject r).pwm0 = s.pwm0 := by unfold State.reject; split <;> rfl
@[simp] theorem reject_pwm1 (s : State) (r : Reject) : (s.reject r).pwm1 = s.pwm1 := by unfold State.reject; split <;> rfl
@[simp] theorem reject_dperiod (s : State) (r : Reject) : (s.reject r).dperiod = s.dperiod := by unfold State.reject; split <;> rfl
@[simp] theorem reject_dcnt (s : State) (r : Reject) : (s.reject r).dcnt = s.dcnt := by unfold State.reject; split <;> rfl
@[simp] theorem reject_drun (s : State) (r : Reject) : (s.reject r).drun = s.drun := by unfold State.reject; split <;> rfl
@[simp] theorem reject_tickPend (s : State) (r : Reject) : (s.reject r).tickPend = s.tickPend := by unfold State.reject; split <;> rfl
@[simp] theorem reject_tickOvr (s : State) (r : Reject) : (s.reject r).tickOvr = s.tickOvr := by unfold State.reject; split <;> rfl
@[simp] theorem reject_arm (s : State) (r : Reject) : (s.reject r).arm = s.arm := by unfold State.reject; split <;> rfl
@[simp] theorem reject_prevLv (s : State) (r : Reject) : (s.reject r).prevLv = s.prevLv := by unfold State.reject; split <;> rfl
@[simp] theorem reject_latch (s : State) (r : Reject) : (s.reject r).latch = s.latch := by unfold State.reject; split <;> rfl
@[simp] theorem reject_bitmap (s : State) (r : Reject) : (s.reject r).bitmap = s.bitmap := by unfold State.reject; split <;> rfl
@[simp] theorem reject_bumpPend (s : State) (r : Reject) : (s.reject r).bumpPend = s.bumpPend := by unfold State.reject; split <;> rfl
@[simp] theorem reject_dirL (s : State) (r : Reject) : (s.reject r).dirL = s.dirL := by unfold State.reject; split <;> rfl
@[simp] theorem reject_dirR (s : State) (r : Reject) : (s.reject r).dirR = s.dirR := by unfold State.reject; split <;> rfl
@[simp] theorem reject_busRead (s : State) (r : Reject) : (s.reject r).busRead = s.busRead := by unfold State.reject; split <;> rfl
@[simp] theorem reject_inputs (s : State) (r : Reject) : (s.reject r).inputs = s.inputs := by unfold State.reject; split <;> rfl
@[simp] theorem reject_drawn (s : State) (r : Reject) : (s.reject r).drawn = s.drawn := by unfold State.reject; split <;> rfl

/-! ### clearErr -/

@[simp] theorem clearErr_cmdLo (s : State) : (s.clearErr).cmdLo = s.cmdLo := rfl
@[simp] theorem clearErr_cmdHi (s : State) : (s.clearErr).cmdHi = s.cmdHi := rfl
@[simp] theorem clearErr_err (s : State) : (s.clearErr).err = false := rfl
@[simp] theorem clearErr_errCode (s : State) : (s.clearErr).errCode = 0#4 := rfl
@[simp] theorem clearErr_pwm0 (s : State) : (s.clearErr).pwm0 = s.pwm0 := rfl
@[simp] theorem clearErr_pwm1 (s : State) : (s.clearErr).pwm1 = s.pwm1 := rfl
@[simp] theorem clearErr_dperiod (s : State) : (s.clearErr).dperiod = s.dperiod := rfl
@[simp] theorem clearErr_dcnt (s : State) : (s.clearErr).dcnt = s.dcnt := rfl
@[simp] theorem clearErr_drun (s : State) : (s.clearErr).drun = s.drun := rfl
@[simp] theorem clearErr_tickPend (s : State) : (s.clearErr).tickPend = s.tickPend := rfl
@[simp] theorem clearErr_tickOvr (s : State) : (s.clearErr).tickOvr = s.tickOvr := rfl
@[simp] theorem clearErr_arm (s : State) : (s.clearErr).arm = s.arm := rfl
@[simp] theorem clearErr_prevLv (s : State) : (s.clearErr).prevLv = s.prevLv := rfl
@[simp] theorem clearErr_latch (s : State) : (s.clearErr).latch = s.latch := rfl
@[simp] theorem clearErr_bitmap (s : State) : (s.clearErr).bitmap = s.bitmap := rfl
@[simp] theorem clearErr_bumpPend (s : State) : (s.clearErr).bumpPend = s.bumpPend := rfl
@[simp] theorem clearErr_dirL (s : State) : (s.clearErr).dirL = s.dirL := rfl
@[simp] theorem clearErr_dirR (s : State) : (s.clearErr).dirR = s.dirR := rfl
@[simp] theorem clearErr_busRead (s : State) : (s.clearErr).busRead = s.busRead := rfl
@[simp] theorem clearErr_inputs (s : State) : (s.clearErr).inputs = s.inputs := rfl
@[simp] theorem clearErr_drawn (s : State) : (s.clearErr).drawn = s.drawn := rfl

/-! ### setDirections -/

@[simp] theorem setDirections_cmdLo (s : State) (l r : Bool) : (s.setDirections l r).cmdLo = s.cmdLo := rfl
@[simp] theorem setDirections_cmdHi (s : State) (l r : Bool) : (s.setDirections l r).cmdHi = s.cmdHi := rfl
@[simp] theorem setDirections_err (s : State) (l r : Bool) : (s.setDirections l r).err = s.err := rfl
@[simp] theorem setDirections_errCode (s : State) (l r : Bool) : (s.setDirections l r).errCode = s.errCode := rfl
@[simp] theorem setDirections_pwm0 (s : State) (l r : Bool) : (s.setDirections l r).pwm0 = s.pwm0 := rfl
@[simp] theorem setDirections_pwm1 (s : State) (l r : Bool) : (s.setDirections l r).pwm1 = s.pwm1 := rfl
@[simp] theorem setDirections_dperiod (s : State) (l r : Bool) : (s.setDirections l r).dperiod = s.dperiod := rfl
@[simp] theorem setDirections_dcnt (s : State) (l r : Bool) : (s.setDirections l r).dcnt = s.dcnt := rfl
@[simp] theorem setDirections_drun (s : State) (l r : Bool) : (s.setDirections l r).drun = s.drun := rfl
@[simp] theorem setDirections_tickPend (s : State) (l r : Bool) : (s.setDirections l r).tickPend = s.tickPend := rfl
@[simp] theorem setDirections_tickOvr (s : State) (l r : Bool) : (s.setDirections l r).tickOvr = s.tickOvr := rfl
@[simp] theorem setDirections_arm (s : State) (l r : Bool) : (s.setDirections l r).arm = s.arm := rfl
@[simp] theorem setDirections_prevLv (s : State) (l r : Bool) : (s.setDirections l r).prevLv = s.prevLv := rfl
@[simp] theorem setDirections_latch (s : State) (l r : Bool) : (s.setDirections l r).latch = s.latch := rfl
@[simp] theorem setDirections_bitmap (s : State) (l r : Bool) : (s.setDirections l r).bitmap = s.bitmap := rfl
@[simp] theorem setDirections_bumpPend (s : State) (l r : Bool) : (s.setDirections l r).bumpPend = s.bumpPend := rfl
@[simp] theorem setDirections_dirL (s : State) (l r : Bool) : (s.setDirections l r).dirL = l := rfl
@[simp] theorem setDirections_dirR (s : State) (l r : Bool) : (s.setDirections l r).dirR = r := rfl
@[simp] theorem setDirections_busRead (s : State) (l r : Bool) : (s.setDirections l r).busRead = s.busRead := rfl
@[simp] theorem setDirections_inputs (s : State) (l r : Bool) : (s.setDirections l r).inputs = s.inputs := rfl
@[simp] theorem setDirections_drawn (s : State) (l r : Bool) : (s.setDirections l r).drawn = s.drawn := rfl

/-! ### writeMotorDuties -/

@[simp] theorem writeMotorDuties_cmdLo (s : State) (l r : Half) : (s.writeMotorDuties l r).cmdLo = s.cmdLo := rfl
@[simp] theorem writeMotorDuties_cmdHi (s : State) (l r : Half) : (s.writeMotorDuties l r).cmdHi = s.cmdHi := rfl
@[simp] theorem writeMotorDuties_err (s : State) (l r : Half) : (s.writeMotorDuties l r).err = s.err := rfl
@[simp] theorem writeMotorDuties_errCode (s : State) (l r : Half) : (s.writeMotorDuties l r).errCode = s.errCode := rfl
@[simp] theorem writeMotorDuties_pwm0 (s : State) (l r : Half) : (s.writeMotorDuties l r).pwm0 = (s.pwm0.writeShadow .a l).writeShadow .b r := rfl
@[simp] theorem writeMotorDuties_pwm1 (s : State) (l r : Half) : (s.writeMotorDuties l r).pwm1 = s.pwm1 := rfl
@[simp] theorem writeMotorDuties_dperiod (s : State) (l r : Half) : (s.writeMotorDuties l r).dperiod = s.dperiod := rfl
@[simp] theorem writeMotorDuties_dcnt (s : State) (l r : Half) : (s.writeMotorDuties l r).dcnt = s.dcnt := rfl
@[simp] theorem writeMotorDuties_drun (s : State) (l r : Half) : (s.writeMotorDuties l r).drun = s.drun := rfl
@[simp] theorem writeMotorDuties_tickPend (s : State) (l r : Half) : (s.writeMotorDuties l r).tickPend = s.tickPend := rfl
@[simp] theorem writeMotorDuties_tickOvr (s : State) (l r : Half) : (s.writeMotorDuties l r).tickOvr = s.tickOvr := rfl
@[simp] theorem writeMotorDuties_arm (s : State) (l r : Half) : (s.writeMotorDuties l r).arm = s.arm := rfl
@[simp] theorem writeMotorDuties_prevLv (s : State) (l r : Half) : (s.writeMotorDuties l r).prevLv = s.prevLv := rfl
@[simp] theorem writeMotorDuties_latch (s : State) (l r : Half) : (s.writeMotorDuties l r).latch = s.latch := rfl
@[simp] theorem writeMotorDuties_bitmap (s : State) (l r : Half) : (s.writeMotorDuties l r).bitmap = s.bitmap := rfl
@[simp] theorem writeMotorDuties_bumpPend (s : State) (l r : Half) : (s.writeMotorDuties l r).bumpPend = s.bumpPend := rfl
@[simp] theorem writeMotorDuties_dirL (s : State) (l r : Half) : (s.writeMotorDuties l r).dirL = s.dirL := rfl
@[simp] theorem writeMotorDuties_dirR (s : State) (l r : Half) : (s.writeMotorDuties l r).dirR = s.dirR := rfl
@[simp] theorem writeMotorDuties_busRead (s : State) (l r : Half) : (s.writeMotorDuties l r).busRead = s.busRead := rfl
@[simp] theorem writeMotorDuties_inputs (s : State) (l r : Half) : (s.writeMotorDuties l r).inputs = s.inputs := rfl
@[simp] theorem writeMotorDuties_drawn (s : State) (l r : Half) : (s.writeMotorDuties l r).drawn = s.drawn := rfl

/-! ### placeEvent -/

@[simp] theorem placeEvent_cmdLo (s : State) (e : Event) : (s.placeEvent e).cmdLo = s.cmdLo := rfl
@[simp] theorem placeEvent_cmdHi (s : State) (e : Event) : (s.placeEvent e).cmdHi = s.cmdHi := rfl
@[simp] theorem placeEvent_err (s : State) (e : Event) : (s.placeEvent e).err = s.err := rfl
@[simp] theorem placeEvent_errCode (s : State) (e : Event) : (s.placeEvent e).errCode = s.errCode := rfl
@[simp] theorem placeEvent_pwm0 (s : State) (e : Event) : (s.placeEvent e).pwm0 = s.pwm0 := rfl
@[simp] theorem placeEvent_pwm1 (s : State) (e : Event) : (s.placeEvent e).pwm1 = s.pwm1 := rfl
@[simp] theorem placeEvent_dperiod (s : State) (e : Event) : (s.placeEvent e).dperiod = s.dperiod := rfl
@[simp] theorem placeEvent_dcnt (s : State) (e : Event) : (s.placeEvent e).dcnt = s.dcnt := rfl
@[simp] theorem placeEvent_drun (s : State) (e : Event) : (s.placeEvent e).drun = s.drun := rfl
@[simp] theorem placeEvent_tickPend (s : State) (e : Event) : (s.placeEvent e).tickPend = s.tickPend := rfl
@[simp] theorem placeEvent_tickOvr (s : State) (e : Event) : (s.placeEvent e).tickOvr = s.tickOvr := rfl
@[simp] theorem placeEvent_arm (s : State) (e : Event) : (s.placeEvent e).arm = s.arm := rfl
@[simp] theorem placeEvent_prevLv (s : State) (e : Event) : (s.placeEvent e).prevLv = s.prevLv := rfl
@[simp] theorem placeEvent_latch (s : State) (e : Event) : (s.placeEvent e).latch = s.latch := rfl
@[simp] theorem placeEvent_bitmap (s : State) (e : Event) : (s.placeEvent e).bitmap = s.bitmap := rfl
@[simp] theorem placeEvent_bumpPend (s : State) (e : Event) : (s.placeEvent e).bumpPend = s.bumpPend := rfl
@[simp] theorem placeEvent_dirL (s : State) (e : Event) : (s.placeEvent e).dirL = s.dirL := rfl
@[simp] theorem placeEvent_dirR (s : State) (e : Event) : (s.placeEvent e).dirR = s.dirR := rfl
@[simp] theorem placeEvent_busRead (s : State) (e : Event) : (s.placeEvent e).busRead = s.busRead := rfl
@[simp] theorem placeEvent_inputs (s : State) (e : Event) : (s.placeEvent e).inputs = e :: s.inputs := rfl
@[simp] theorem placeEvent_drawn (s : State) (e : Event) : (s.placeEvent e).drawn = s.drawn := rfl

/-! ### dropEvent -/

@[simp] theorem dropEvent_cmdLo (s : State) : (s.dropEvent).cmdLo = s.cmdLo := by unfold State.dropEvent; split <;> rfl
@[simp] theorem dropEvent_cmdHi (s : State) : (s.dropEvent).cmdHi = s.cmdHi := by unfold State.dropEvent; split <;> rfl
@[simp] theorem dropEvent_err (s : State) : (s.dropEvent).err = s.err := by unfold State.dropEvent; split <;> rfl
@[simp] theorem dropEvent_errCode (s : State) : (s.dropEvent).errCode = s.errCode := by unfold State.dropEvent; split <;> rfl
@[simp] theorem dropEvent_pwm0 (s : State) : (s.dropEvent).pwm0 = s.pwm0 := by unfold State.dropEvent; split <;> rfl
@[simp] theorem dropEvent_pwm1 (s : State) : (s.dropEvent).pwm1 = s.pwm1 := by unfold State.dropEvent; split <;> rfl
@[simp] theorem dropEvent_dperiod (s : State) : (s.dropEvent).dperiod = s.dperiod := by unfold State.dropEvent; split <;> rfl
@[simp] theorem dropEvent_dcnt (s : State) : (s.dropEvent).dcnt = s.dcnt := by unfold State.dropEvent; split <;> rfl
@[simp] theorem dropEvent_drun (s : State) : (s.dropEvent).drun = s.drun := by unfold State.dropEvent; split <;> rfl
@[simp] theorem dropEvent_tickPend (s : State) : (s.dropEvent).tickPend = s.tickPend := by unfold State.dropEvent; split <;> rfl
@[simp] theorem dropEvent_tickOvr (s : State) : (s.dropEvent).tickOvr = s.tickOvr := by unfold State.dropEvent; split <;> rfl
@[simp] theorem dropEvent_arm (s : State) : (s.dropEvent).arm = s.arm := by unfold State.dropEvent; split <;> rfl
@[simp] theorem dropEvent_prevLv (s : State) : (s.dropEvent).prevLv = s.prevLv := by unfold State.dropEvent; split <;> rfl
@[simp] theorem dropEvent_latch (s : State) : (s.dropEvent).latch = s.latch := by unfold State.dropEvent; split <;> rfl
@[simp] theorem dropEvent_bitmap (s : State) : (s.dropEvent).bitmap = s.bitmap := by unfold State.dropEvent; split <;> rfl
@[simp] theorem dropEvent_bumpPend (s : State) : (s.dropEvent).bumpPend = s.bumpPend := by unfold State.dropEvent; split <;> rfl
@[simp] theorem dropEvent_dirL (s : State) : (s.dropEvent).dirL = s.dirL := by unfold State.dropEvent; split <;> rfl
@[simp] theorem dropEvent_dirR (s : State) : (s.dropEvent).dirR = s.dirR := by unfold State.dropEvent; split <;> rfl
@[simp] theorem dropEvent_busRead (s : State) : (s.dropEvent).busRead = s.busRead := by unfold State.dropEvent; split <;> rfl
@[simp] theorem dropEvent_inputs (s : State) : (s.dropEvent).inputs = s.inputs.tail := by unfold State.dropEvent; split <;> simp_all

/-! ### The updates of one channel -/

@[simp] theorem writeShadow_period (p : PwmChannel) (o : Out) (v : Half) : (p.writeShadow o v).period = p.period := rfl
@[simp] theorem writeShadow_cnt (p : PwmChannel) (o : Out) (v : Half) : (p.writeShadow o v).cnt = p.cnt := rfl
@[simp] theorem writeShadow_active (p : PwmChannel) (o : Out) (v : Half) : (p.writeShadow o v).active = p.active := rfl
@[simp] theorem writeShadow_run (p : PwmChannel) (o : Out) (v : Half) : (p.writeShadow o v).run = p.run := rfl
@[simp] theorem writeShadow_shadow (p : PwmChannel) (o : Out) (v : Half) :
    (p.writeShadow o v).shadow = p.shadow.set o (clamp v p.period) := rfl

@[simp] theorem dutyPair_get_set_same (d : DutyPair) (o : Out) (v : Half) : (d.set o v).get o = v := by
  cases o <;> rfl
@[simp] theorem dutyPair_get_set_other (d : DutyPair) (o : Out) (v : Half) :
    (d.set o v).get (otherOut o) = d.get (otherOut o) := by
  cases o <;> rfl

@[simp] theorem init_period (p a b : Half) : (PwmChannel.init p a b).period = p := rfl
@[simp] theorem init_cnt (p a b : Half) : (PwmChannel.init p a b).cnt = 0#16 := rfl
@[simp] theorem init_run (p a b : Half) : (PwmChannel.init p a b).run = true := rfl
@[simp] theorem init_shadow (p a b : Half) : (PwmChannel.init p a b).shadow = ⟨clamp a p, clamp b p⟩ := rfl
@[simp] theorem init_active (p a b : Half) : (PwmChannel.init p a b).active = ⟨clamp a p, clamp b p⟩ := rfl

@[simp] theorem stop_period (p : PwmChannel) : p.stop.period = p.period := rfl
@[simp] theorem stop_cnt (p : PwmChannel) : p.stop.cnt = 0#16 := rfl
@[simp] theorem stop_run (p : PwmChannel) : p.stop.run = false := rfl
@[simp] theorem stop_shadow (p : PwmChannel) : p.stop.shadow = p.shadow := rfl
@[simp] theorem stop_active (p : PwmChannel) : p.stop.active = p.active := rfl

@[simp] theorem tick_period (p : PwmChannel) : p.tick.period = p.period := by
  unfold PwmChannel.tick; split <;> (try split) <;> rfl
@[simp] theorem tick_shadow (p : PwmChannel) : p.tick.shadow = p.shadow := by
  unfold PwmChannel.tick; split <;> (try split) <;> rfl
@[simp] theorem tick_run (p : PwmChannel) : p.tick.run = p.run := by
  unfold PwmChannel.tick; split <;> (try split) <;> rfl

end Sys2Proof.Machine
end

