-- ==== Sys2Proof/Laws/Ops.lean ====
section
/-! SUPPORT. What each shared operation can do, said once: the selectors, the clamp, the tick of a channel, the reject. -/

namespace Sys2Proof.Machine

/-- The clamp is the unsigned minimum (R151). -/
theorem clamp_toNat (v p : Half) : (clamp v p).toNat = min v.toNat p.toNat := by
  unfold clamp
  split
  · rename_i h; rw [BitVec.le_def] at h; omega
  · rename_i h; rw [BitVec.le_def] at h; omega

/-- A clamped duty never exceeds the period (R33 I1). -/
@[simp] theorem clamp_le (v p : Half) : clamp v p ≤ p := by
  rw [BitVec.le_def, clamp_toNat]; omega

@[simp] theorem clamp_zero (p : Half) : clamp 0#16 p = 0#16 := by
  apply BitVec.eq_of_toNat_eq; rw [clamp_toNat]; simp

@[simp] theorem chanOf_chanField (c : Chan) : chanOf (chanField c) = some c := by cases c <;> rfl
@[simp] theorem outOf_outField (o : Out) : outOf (outField o) = some o := by cases o <;> rfl

/-- A CH field above 1 selects no channel (R116). -/
theorem chanOf_eq_none {ch : Byte} (h : 1 < ch.toNat) : chanOf ch = none := by
  unfold chanOf; split <;> first | rfl | omega

/-- An IDX field above 1 selects no output (R116). -/
theorem outOf_eq_none {idx : Byte} (h : 1 < idx.toNat) : outOf idx = none := by
  unfold outOf; split <;> first | rfl | omega

/-- The only CH field that selects a channel is its number. -/
theorem eq_chanField_of_chanOf {ch : Byte} {c : Chan} (h : chanOf ch = some c) : ch = chanField c := by
  unfold chanOf at h
  split at h
  · cases h; exact BitVec.eq_of_toNat_eq ‹_›
  · cases h; exact BitVec.eq_of_toNat_eq ‹_›
  · cases h

/-- The only IDX field that selects an output is its number. -/
theorem eq_outField_of_outOf {idx : Byte} {o : Out} (h : outOf idx = some o) : idx = outField o := by
  unfold outOf at h
  split at h
  · cases h; exact BitVec.eq_of_toNat_eq ‹_›
  · cases h; exact BitVec.eq_of_toNat_eq ‹_›
  · cases h

/-! ## The tick of a channel (R153) -/

/-- A stopped timer does not count. -/
theorem tick_stopped {p : PwmChannel} (h : p.run = false) : p.tick = p := by
  simp [PwmChannel.tick, h]

/-- `period - 1` as a number, for a period that is not 0. -/
theorem toNat_pred {w : Nat} {p : BitVec (w + 1)} (h : 1 ≤ p.toNat) : (p - 1#(w + 1)).toNat = p.toNat - 1 := by
  have := p.isLt
  have e : (1#(w + 1)).toNat = 1 := by simp
  have hw : 2 ≤ 2 ^ (w + 1) := by rw [Nat.pow_succ]; have := Nat.two_pow_pos w; omega
  rw [BitVec.toNat_sub, e, show 2 ^ (w + 1) - 1 + p.toNat = (p.toNat - 1) + 2 ^ (w + 1) by omega,
    Nat.add_mod_right, Nat.mod_eq_of_lt (by omega)]

/-- A counter below `2^w - 1` counts without overflow. -/
theorem toNat_succ {w : Nat} {c : BitVec (w + 1)} (h : c.toNat + 1 < 2 ^ (w + 1)) : (c + 1#(w + 1)).toNat = c.toNat + 1 := by
  rw [BitVec.toNat_add, show (1#(w + 1)).toNat = 1 by simp, Nat.mod_eq_of_lt h]

/-- At the period boundary the counter returns to 0 and both shadows become active. -/
theorem tick_boundary {p : PwmChannel} (hr : p.run = true) (h : p.cnt.toNat + 1 = p.period.toNat) :
    p.tick = { p with cnt := 0#16, active := p.shadow } := by
  have hc : p.cnt = p.period - 1#16 := BitVec.eq_of_toNat_eq (by rw [toNat_pred (by omega)]; omega)
  rw [PwmChannel.tick, if_neg (by simp [hr]), if_pos hc]

/-- Inside the period only the counter moves, without overflow. -/
theorem tick_inside {p : PwmChannel} (hr : p.run = true) (h : p.cnt.toNat + 1 < p.period.toNat) :
    p.tick = { p with cnt := p.cnt + 1#16 } ∧ (p.cnt + 1#16).toNat = p.cnt.toNat + 1 := by
  have hb := p.period.isLt
  have hn : ¬ p.cnt = p.period - 1#16 := fun hc => by
    have := congrArg BitVec.toNat hc
    rw [toNat_pred (by omega)] at this; omega
  exact ⟨by rw [PwmChannel.tick, if_neg (by simp [hr]), if_neg hn], toNat_succ (by omega)⟩

/-! ## The reject (R310) -/

/-- A reject writes the error record and nothing else; the first code since the last clear stays. -/
theorem reject_eq (s : State) (r : Reject) : s.reject r = withReject r.code.toNat s := by
  unfold State.reject withReject
  split
  · rename_i h; cases s; simp_all
  · simp_all

/-! ## The event stream -/

/-- A placed event is the next one. -/
theorem nextEvent_cons {s : State} {e : Event} {es : List Event} (h : s.inputs = e :: es) : s.nextEvent = e := by
  simp [State.nextEvent, h]

/-- Taking a placed event leaves the later ones. -/
theorem dropEvent_cons {s : State} {e : Event} {es : List Event} (h : s.inputs = e :: es) :
    s.dropEvent = { s with inputs := es } := by
  simp [State.dropEvent, h]

/-- A step with a placed event runs that event. -/
theorem step_of_inputs {s : State} {e : Event} {es : List Event} (h : s.inputs = e :: es) :
    step s = runEvent e { s with inputs := es } := by
  rw [step, nextEvent_cons h, dropEvent_cons h]

/-- The window is 256-byte aligned (R8). -/
theorem base_aligned : Config.base % 256 = 0 := Nat.mul_mod_right 256 Config.baseBlock

/-- The host's primitives of R14 reach the offset they name. -/
theorem memRead_base (off bytes : Nat) : memRead (Config.base + off) bytes = some (.hostRead bytes off) := by
  simp [memRead]

theorem memWrite_base (off bytes : Nat) (v : Word) :
    memWrite (Config.base + off) bytes v = some (.hostWrite bytes off v) := by
  simp [memWrite]

end Sys2Proof.Machine
end

