-- ==== Sys2Proof/Laws/PerInstr.lean ====
section
/-! SUPPORT. Per instruction: the encoder puts every instruction on its own row of opcode_table.json, the fixed bits
at the row's match value and every reserved bit 0. -/

namespace Sys2Proof.Laws.TableRow

/-- The row of a command in opcode_table.json: match, reserved_mask (the mask is the opcode byte in every row). -/
def commandRow (i : Instr) : Option (DWord × DWord) :=
  match i with
  | .nop => some (0x0000000000000000, 0x00FFFFFFFFFFFFFF)
  | .pwmInit _ _ _ _ => some (0x1000000000000000, 0x0000000000000000)
  | .pwmUpdate _ _ _ => some (0x1100000000000000, 0x000000FFFFFF0000)
  | .pwmStop _ => some (0x1200000000000000, 0x0000FFFFFFFFFFFF)
  | .dispInit _ => some (0x2000000000000000, 0x00FFFFFF00000000)
  | .dispStop => some (0x2100000000000000, 0x00FFFFFFFFFFFFFF)
  | .monInit _ => some (0x3000000000000000, 0x00FFFFFFFFFFFF00)
  | .latchClear => some (0x3100000000000000, 0x00FFFFFFFFFFFFFF)
  | .motFwd _ _ => some (0x4000000000000000, 0x00FFFFFF00000000)
  | .motBwd _ _ => some (0x4100000000000000, 0x00FFFFFF00000000)
  | .motLeft _ _ => some (0x4200000000000000, 0x00FFFFFF00000000)
  | .motRight _ _ => some (0x4300000000000000, 0x00FFFFFF00000000)
  | .motStop => some (0x4400000000000000, 0x00FFFFFFFFFFFFFF)
  | .wrCmdLo _ => none
  | .wrCmdHi _ => none
  | .wrIrqPend _ => none
  | .wrErr _ => none
  | .wrIgnored _ _ => none
  | .read _ => none

/-- The row of a bus access in opcode_table.json: match, mask. -/
def accessRow (i : Instr) : Option (BitVec 9 × BitVec 9) :=
  match i with
  | .nop => none
  | .pwmInit _ _ _ _ => none
  | .pwmUpdate _ _ _ => none
  | .pwmStop _ => none
  | .dispInit _ => none
  | .dispStop => none
  | .monInit _ => none
  | .latchClear => none
  | .motFwd _ _ => none
  | .motBwd _ _ => none
  | .motLeft _ _ => none
  | .motRight _ _ => none
  | .motStop => none
  | .wrCmdLo _ => some (0x100, 0x1FF)
  | .wrCmdHi _ => some (0x104, 0x1FF)
  | .wrIrqPend _ => some (0x10C, 0x1FF)
  | .wrErr _ => some (0x110, 0x1FF)
  | .wrIgnored _ _ => some (0x100, 0x103)
  | .read _ => some (0x000, 0x103)

/-- The code of a well-formed instruction is on the instruction's row. -/
def Statement (i : Instr) : Prop :=
  i.wellFormed = true →
    match encode i with
    | .command w =>
      ∃ m rsv, commandRow i = some (m, rsv) ∧ w &&& 0xFF00000000000000 = m ∧ w &&& rsv = 0
    | .access a _ => ∃ m mask, accessRow i = some (m, mask) ∧ a &&& mask = m

/-- The opcode byte's mask as a field. -/
theorem opMask : (0xFF00000000000000 : DWord) = put 56 (BitVec.allOnes 8) := by decide

theorem fixed_bits (op : Byte) : put 56 op &&& 0xFF00000000000000 = put 56 op := by
  rw [opMask, put_and_ones _ _ (by decide)]

theorem free_bits {n : Nat} (k : Nat) (v : BitVec n) (h : k + n ≤ 56) : put k v &&& 0xFF00000000000000 = 0 := by
  rw [opMask]; exact put_and_put _ _ _ _ (by omega) (by decide) (.inl h)

/-- Clearing the reserved bits of a word of fields, one field at a time. -/
theorem or_and (a b m : DWord) : (a ||| b) &&& m = (a &&& m) ||| (b &&& m) := by
  apply BitVec.eq_of_getLsbD_eq
  intro i _
  simp only [BitVec.getLsbD_or, BitVec.getLsbD_and]
  cases a.getLsbD i <;> cases b.getLsbD i <;> simp

theorem rsv_fu : (0x000000FFFFFF0000 : DWord) = put 16 (BitVec.allOnes 24) := by decide
theorem rsv_fc : (0x0000FFFFFFFFFFFF : DWord) = put 0 (BitVec.allOnes 48) := by decide
theorem rsv_fd : (0x00FFFFFF00000000 : DWord) = put 32 (BitVec.allOnes 24) := by decide
theorem rsv_fm : (0x00FFFFFFFFFFFF00 : DWord) = put 8 (BitVec.allOnes 48) := by decide

theorem nop : Statement (.nop) := by
  exact fun _ => ⟨_, _, rfl, by decide, by decide⟩

theorem pwmInit (ch : Byte) (period : Half) (dutyA : Half) (dutyB : Half) : Statement (.pwmInit ch period dutyA dutyB) := by
  refine fun _ => ⟨_, _, rfl, ?_, ?_⟩
  · simp only [wordFI, or_and, fixed_bits, free_bits 48 ch (by decide), free_bits 32 period (by decide), free_bits 16 dutyA (by decide), free_bits 0 dutyB (by decide)]; decide
  · simp

theorem pwmUpdate (ch : Byte) (idx : Byte) (value : Half) : Statement (.pwmUpdate ch idx value) := by
  refine fun _ => ⟨_, _, rfl, ?_, ?_⟩
  · simp only [wordFU, or_and, fixed_bits, free_bits 48 ch (by decide), free_bits 40 idx (by decide), free_bits 0 value (by decide)]; decide
  · simp only [wordFU, or_and, rsv_fu, put_and_put 56 16 (0x11 : Byte) (BitVec.allOnes 24) (by decide) (by decide) (by decide), put_and_put 48 16 ch (BitVec.allOnes 24) (by decide) (by decide) (by decide), put_and_put 40 16 idx (BitVec.allOnes 24) (by decide) (by decide) (by decide), put_and_put 0 16 value (BitVec.allOnes 24) (by decide) (by decide) (by decide)]; rfl

theorem pwmStop (ch : Byte) : Statement (.pwmStop ch) := by
  refine fun _ => ⟨_, _, rfl, ?_, ?_⟩
  · simp only [wordFC, or_and, fixed_bits, free_bits 48 ch (by decide)]; decide
  · simp only [wordFC, or_and, rsv_fc, put_and_put 56 0 (0x12 : Byte) (BitVec.allOnes 48) (by decide) (by decide) (by decide), put_and_put 48 0 ch (BitVec.allOnes 48) (by decide) (by decide) (by decide)]; rfl

theorem dispInit (dperiod : Word) : Statement (.dispInit dperiod) := by
  refine fun _ => ⟨_, _, rfl, ?_, ?_⟩
  · simp only [wordFD, or_and, fixed_bits, free_bits 0 dperiod (by decide)]; decide
  · simp only [wordFD, or_and, rsv_fd, put_and_put 56 32 (0x20 : Byte) (BitVec.allOnes 24) (by decide) (by decide) (by decide), put_and_put 0 32 dperiod (BitVec.allOnes 24) (by decide) (by decide) (by decide)]; rfl

theorem dispStop : Statement (.dispStop) := by
  exact fun _ => ⟨_, _, rfl, by decide, by decide⟩

theorem monInit (mask : Byte) : Statement (.monInit mask) := by
  refine fun _ => ⟨_, _, rfl, ?_, ?_⟩
  · simp only [wordFM, or_and, fixed_bits, free_bits 0 mask (by decide)]; decide
  · simp only [wordFM, or_and, rsv_fm, put_and_put 56 8 (0x30 : Byte) (BitVec.allOnes 48) (by decide) (by decide) (by decide), put_and_put 0 8 mask (BitVec.allOnes 48) (by decide) (by decide) (by decide)]; rfl

theorem latchClear : Statement (.latchClear) := by
  exact fun _ => ⟨_, _, rfl, by decide, by decide⟩

theorem motFwd (l : Half) (r : Half) : Statement (.motFwd l r) := by
  refine fun _ => ⟨_, _, rfl, ?_, ?_⟩
  · simp only [wordFLR, or_and, fixed_bits, free_bits 16 l (by decide), free_bits 0 r (by decide)]; decide
  · simp only [wordFLR, or_and, rsv_fd, put_and_put 56 32 (0x40 : Byte) (BitVec.allOnes 24) (by decide) (by decide) (by decide), put_and_put 16 32 l (BitVec.allOnes 24) (by decide) (by decide) (by decide), put_and_put 0 32 r (BitVec.allOnes 24) (by decide) (by decide) (by decide)]; rfl

theorem motBwd (l : Half) (r : Half) : Statement (.motBwd l r) := by
  refine fun _ => ⟨_, _, rfl, ?_, ?_⟩
  · simp only [wordFLR, or_and, fixed_bits, free_bits 16 l (by decide), free_bits 0 r (by decide)]; decide
  · simp only [wordFLR, or_and, rsv_fd, put_and_put 56 32 (0x41 : Byte) (BitVec.allOnes 24) (by decide) (by decide) (by decide), put_and_put 16 32 l (BitVec.allOnes 24) (by decide) (by decide) (by decide), put_and_put 0 32 r (BitVec.allOnes 24) (by decide) (by decide) (by decide)]; rfl

theorem motLeft (l : Half) (r : Half) : Statement (.motLeft l r) := by
  refine fun _ => ⟨_, _, rfl, ?_, ?_⟩
  · simp only [wordFLR, or_and, fixed_bits, free_bits 16 l (by decide), free_bits 0 r (by decide)]; decide
  · simp only [wordFLR, or_and, rsv_fd, put_and_put 56 32 (0x42 : Byte) (BitVec.allOnes 24) (by decide) (by decide) (by decide), put_and_put 16 32 l (BitVec.allOnes 24) (by decide) (by decide) (by decide), put_and_put 0 32 r (BitVec.allOnes 24) (by decide) (by decide) (by decide)]; rfl

theorem motRight (l : Half) (r : Half) : Statement (.motRight l r) := by
  refine fun _ => ⟨_, _, rfl, ?_, ?_⟩
  · simp only [wordFLR, or_and, fixed_bits, free_bits 16 l (by decide), free_bits 0 r (by decide)]; decide
  · simp only [wordFLR, or_and, rsv_fd, put_and_put 56 32 (0x43 : Byte) (BitVec.allOnes 24) (by decide) (by decide) (by decide), put_and_put 16 32 l (BitVec.allOnes 24) (by decide) (by decide) (by decide), put_and_put 0 32 r (BitVec.allOnes 24) (by decide) (by decide) (by decide)]; rfl

theorem motStop : Statement (.motStop) := by
  exact fun _ => ⟨_, _, rfl, by decide, by decide⟩

theorem wrCmdLo (v : Word) : Statement (.wrCmdLo v) := by
  exact fun _ => ⟨_, _, rfl, by decide⟩

theorem wrCmdHi (v : Word) : Statement (.wrCmdHi v) := by
  exact fun _ => ⟨_, _, rfl, by decide⟩

theorem wrIrqPend (v : Word) : Statement (.wrIrqPend v) := by
  exact fun _ => ⟨_, _, rfl, by decide⟩

theorem wrErr (v : Word) : Statement (.wrErr v) := by
  exact fun _ => ⟨_, _, rfl, by decide⟩

theorem wrIgnored (off : Byte) (v : Word) : Statement (.wrIgnored off v) := by
  intro h
  refine ⟨_, _, rfl, ?_⟩
  have h' : aligned off = true := by simp only [Instr.wellFormed, Bool.and_eq_true] at h; exact h.1
  clear h; revert off; decide

theorem read (off : Byte) : Statement (.read off) := by
  intro h
  exact ⟨_, _, rfl, by revert off; decide⟩

end Sys2Proof.Laws.TableRow
end

