-- ==== Sys2Proof/Laws/Step.lean ====
section
/-! SUPPORT. What a step can do, said once: the dispatch of a committed command, and every way an event reaches a
next state. -/

namespace Sys2Proof.Machine

/-- The instruction is a command, not a bus access. -/
def isCommand (i : Instr) : Bool :=
  match encode i with
  | .command _ => true
  | .access _ _ => false

/-- The opcode map holds commands alone. -/
theorem isCommand_of_opcodeRow {op : Byte} {w : DWord} {f : Format} {i : Instr} (h : opcodeRow op w = some (f, i)) :
    isCommand i = true := by
  unfold opcodeRow at h
  split at h <;> first | (cases h; rfl) | cases h

/-- The command decoder gives commands alone. -/
theorem isCommand_of_decodeCommand {w : DWord} {i : Instr} (h : decodeCommand w = .ok i) : isCommand i = true := by
  unfold decodeCommand at h
  split at h
  · cases h
  · rename_i hrow
    split at h
    · cases h; exact isCommand_of_opcodeRow hrow
    · cases h

/-- A decoded command runs by its own meaning. -/
theorem runCommand_eq_exec {i : Instr} (h : isCommand i = true) (s : State) : runCommand i s = exec i s := by
  cases i <;> first | rfl | simp [isCommand, encode] at h

/-- A CMD_HI write with a word that decodes (R281). -/
theorem execWrCmdHi_ok {s : State} {v : Word} {i : Instr} (h : decodeCommand (v ++ s.cmdLo) = .ok i) :
    execWrCmdHi v s = exec i { s with cmdHi := v } := by
  rw [execWrCmdHi, execute, h]
  exact runCommand_eq_exec (isCommand_of_decodeCommand h) _

/-- A CMD_HI write with a word that the decoder rejects (R281, R310). -/
theorem execWrCmdHi_error {s : State} {v : Word} {r : Reject} (h : decodeCommand (v ++ s.cmdLo) = .error r) :
    execWrCmdHi v s = .next (({ s with cmdHi := v } : State).reject r) := by
  rw [execWrCmdHi, execute, h]

/-- A host access that reaches a next state is admitted, decodes, and runs its instruction. -/
theorem runAccess_next {write : Bool} {bytes off : Nat} {v : Word} {s t : State} (h : runAccess write bytes off v s = .next t) :
    bytes = 4 ∧ off < 0x100 ∧ ∃ i, decodeAccess (accessWord write (BitVec.ofNat 8 off)) v = .ok i ∧ exec i s = .next t := by
  unfold runAccess at h
  split at h
  · cases h
  · split at h
    · cases h
    · rename_i h1 h2
      refine ⟨by omega, by omega, ?_⟩
      split at h
      · exact ⟨_, ‹_›, h⟩
      · cases h

/-- What a write access decodes to, by its offset: the first matching row. -/
theorem decodeAccess_write {off : Byte} {v : Word} {i : Instr} (h : decodeAccess (accessWord true off) v = .ok i) :
    (off = 0x00 ∧ i = .wrCmdLo v) ∨ (off = 0x04 ∧ i = .wrCmdHi v) ∨ (off = 0x0C ∧ i = .wrIrqPend v)
      ∨ (off = 0x10 ∧ i = .wrErr v) ∨ (aligned off = true ∧ hasOwnWriteRow off = false ∧ i = .wrIgnored off v) := by
  have key : ∀ off : Byte,
      (accessWord true off &&& 0x1FF = 0x100 → off = 0x00) ∧ (accessWord true off &&& 0x1FF = 0x104 → off = 0x04)
      ∧ (accessWord true off &&& 0x1FF = 0x10C → off = 0x0C) ∧ (accessWord true off &&& 0x1FF = 0x110 → off = 0x10)
      ∧ (¬ accessWord true off &&& 0x1FF = 0x100 → ¬ accessWord true off &&& 0x1FF = 0x104 →
          ¬ accessWord true off &&& 0x1FF = 0x10C → ¬ accessWord true off &&& 0x1FF = 0x110 →
          accessWord true off &&& 0x103 = 0x100 → aligned off = true ∧ hasOwnWriteRow off = false)
      ∧ ¬ accessWord true off &&& 0x103 = 0x000 := by decide
  obtain ⟨k0, k1, k2, k3, k4, k5⟩ := key off
  unfold decodeAccess at h
  split at h
  · cases h; exact .inl ⟨k0 ‹_›, rfl⟩
  split at h
  · cases h; exact .inr (.inl ⟨k1 ‹_›, rfl⟩)
  split at h
  · cases h; exact .inr (.inr (.inl ⟨k2 ‹_›, rfl⟩))
  split at h
  · cases h; exact .inr (.inr (.inr (.inl ⟨k3 ‹_›, rfl⟩)))
  split at h
  · cases h
    obtain ⟨ha, ho⟩ := k4 ‹_› ‹_› ‹_› ‹_› ‹_›
    exact .inr (.inr (.inr (.inr ⟨ha, ho, by rw [fieldOff_accessWord]⟩)))
  cases h

/-- What a read access decodes to. -/
theorem decodeAccess_read {off : Byte} {v : Word} {i : Instr} (h : decodeAccess (accessWord false off) v = .ok i) :
    aligned off = true ∧ i = .read off := by
  have key : ∀ off : Byte,
      ¬ accessWord false off &&& 0x1FF = 0x100 ∧ ¬ accessWord false off &&& 0x1FF = 0x104
      ∧ ¬ accessWord false off &&& 0x1FF = 0x10C ∧ ¬ accessWord false off &&& 0x1FF = 0x110
      ∧ ¬ accessWord false off &&& 0x103 = 0x100
      ∧ (accessWord false off &&& 0x103 = 0x000 → aligned off = true) := by decide
  obtain ⟨k0, k1, k2, k3, k4, k5⟩ := key off
  unfold decodeAccess at h
  rw [if_neg k0, if_neg k1, if_neg k2, if_neg k3, if_neg k4] at h
  split at h
  · cases h; exact ⟨k5 ‹_›, by rw [fieldOff_accessWord]⟩
  · cases h

/-- Every way an event reaches a next state. -/
theorem runEvent_next {e : Event} {s t : State} (h : runEvent e s = .next t) :
    (∃ c, e = .pwmTick c ∧ t = onPwmTick c s)
    ∨ (e = .dispTick ∧ t = onDispTick s)
    ∨ (∃ lv, e = .sample lv ∧ t = onSample lv s)
    ∨ (e = .reset ∧ t = onReset s)
    ∨ (∃ off, e = .hostRead 4 off ∧ t = { s with busRead := some (readReg s (BitVec.ofNat 8 off)) })
    ∨ (∃ v, e = .hostWrite 4 0x00 v ∧ t = { s with cmdLo := v })
    ∨ (∃ v, e = .hostWrite 4 0x04 v ∧ execWrCmdHi v s = .next t)
    ∨ (∃ v, e = .hostWrite 4 0x0C v ∧ execWrIrqPend v s = .next t)
    ∨ (∃ v, e = .hostWrite 4 0x10 v ∧ t = if v.getLsbD 0 then s.clearErr else s)
    ∨ (∃ off v, e = .hostWrite 4 off v ∧ t = s) := by
  cases e with
  | pwmTick c => cases h; exact .inl ⟨c, rfl, rfl⟩
  | dispTick => cases h; exact .inr (.inl ⟨rfl, rfl⟩)
  | sample lv => cases h; exact .inr (.inr (.inl ⟨lv, rfl, rfl⟩))
  | reset => cases h; exact .inr (.inr (.inr (.inl ⟨rfl, rfl⟩)))
  | hostRead bytes off =>
    obtain ⟨rfl, ho, i, hi, hx⟩ := runAccess_next h
    obtain ⟨ha, rfl⟩ := decodeAccess_read hi
    rw [exec, execRead, if_neg (by simp [ha])] at hx
    cases hx
    exact .inr (.inr (.inr (.inr (.inl ⟨off, rfl, rfl⟩))))
  | hostWrite bytes off v =>
    obtain ⟨rfl, ho, i, hi, hx⟩ := runAccess_next h
    have hoff : ∀ k : Nat, k < 256 → BitVec.ofNat 8 off = BitVec.ofNat 8 k → off = k := fun k hk hb => by
      have := congrArg BitVec.toNat hb
      simp only [BitVec.toNat_ofNat] at this; omega
    refine .inr (.inr (.inr (.inr (.inr ?_))))
    rcases decodeAccess_write hi with ⟨h0, rfl⟩ | ⟨h0, rfl⟩ | ⟨h0, rfl⟩ | ⟨h0, rfl⟩ | ⟨ha, hr, rfl⟩
    · cases hx; exact .inl ⟨v, by rw [hoff 0x00 (by decide) h0], rfl⟩
    · exact .inr (.inl ⟨v, by rw [hoff 0x04 (by decide) h0], hx⟩)
    · exact .inr (.inr (.inl ⟨v, by rw [hoff 0x0C (by decide) h0], hx⟩))
    · cases hx; exact .inr (.inr (.inr (.inl ⟨v, by rw [hoff 0x10 (by decide) h0], rfl⟩)))
    · rw [exec, execWrIgnored, if_neg (by simp [ha]), if_neg (by simp [hr])] at hx
      cases hx
      exact .inr (.inr (.inr (.inr ⟨off, v, rfl, rfl⟩)))

/-- Every way a command reaches a next state: a reject, or the command's own effect on its unit. -/
theorem exec_command_next {i : Instr} {s t : State} (hc : isCommand i = true) (h : exec i s = .next t) :
    (∃ r, t = s.reject r)
    ∨ (i = .nop ∧ t = s)
    ∨ (∃ c p a b, i = .pwmInit (chanField c) p a b ∧ p ≠ 0#16 ∧ t = s.setChan c (PwmChannel.init p a b))
    ∨ (∃ c o v, i = .pwmUpdate (chanField c) (outField o) v ∧ t = s.setChan c ((s.chan c).writeShadow o v))
    ∨ (∃ c, i = .pwmStop (chanField c) ∧ t = s.setChan c (s.chan c).stop)
    ∨ (∃ d, i = .dispInit d ∧ d ≠ 0#32
        ∧ t = { s with dperiod := d, dcnt := 0#32, drun := true, tickPend := false, tickOvr := false })
    ∨ (i = .dispStop ∧ t = { s with drun := false, dcnt := 0#32, tickPend := false, tickOvr := false })
    ∨ (∃ m, i = .monInit m ∧ t = { s with arm := m })
    ∨ (i = .latchClear ∧ t = { s with latch := false })
    ∨ (∃ dl dr l r, (i = .motFwd l r ∨ i = .motBwd l r ∨ i = .motLeft l r ∨ i = .motRight l r)
        ∧ t = (s.setDirections dl dr).writeMotorDuties l r)
    ∨ (i = .motStop ∧ t = s.writeMotorDuties 0#16 0#16) := by
  cases i with
  | nop => cases h; simp
  | pwmInit ch p a b =>
    simp only [exec, execPwmInit] at h
    split at h
    · cases h; exact .inl ⟨_, rfl⟩
    · rename_i c hch
      split at h
      · cases h; exact .inl ⟨_, rfl⟩
      · cases h; rw [eq_chanField_of_chanOf hch]
        exact .inr (.inr (.inl ⟨c, p, a, b, rfl, ‹_›, rfl⟩))
  | pwmUpdate ch idx v =>
    simp only [exec, execPwmUpdate] at h
    split at h
    · cases h; exact .inl ⟨_, rfl⟩
    · rename_i c hch
      split at h
      · cases h; exact .inl ⟨_, rfl⟩
      · rename_i o ho
        cases h; rw [eq_chanField_of_chanOf hch, eq_outField_of_outOf ho]
        exact .inr (.inr (.inr (.inl ⟨c, o, v, rfl, rfl⟩)))
  | pwmStop ch =>
    simp only [exec, execPwmStop] at h
    split at h
    · cases h; exact .inl ⟨_, rfl⟩
    · rename_i c hch
      cases h; rw [eq_chanField_of_chanOf hch]
      exact .inr (.inr (.inr (.inr (.inl ⟨c, rfl, rfl⟩))))
  | dispInit d =>
    simp only [exec, execDispInit] at h
    split at h
    · cases h; exact .inl ⟨_, rfl⟩
    · cases h; exact .inr (.inr (.inr (.inr (.inr (.inl ⟨d, rfl, ‹_›, rfl⟩)))))
  | dispStop => cases h; simp
  | monInit m => cases h; simp
  | latchClear => cases h; simp
  | motFwd l r => cases h; exact .inr (.inr (.inr (.inr (.inr (.inr (.inr (.inr (.inr (.inl ⟨_, _, l, r, by simp, rfl⟩)))))))))
  | motBwd l r => cases h; exact .inr (.inr (.inr (.inr (.inr (.inr (.inr (.inr (.inr (.inl ⟨_, _, l, r, by simp, rfl⟩)))))))))
  | motLeft l r => cases h; exact .inr (.inr (.inr (.inr (.inr (.inr (.inr (.inr (.inr (.inl ⟨_, _, l, r, by simp, rfl⟩)))))))))
  | motRight l r => cases h; exact .inr (.inr (.inr (.inr (.inr (.inr (.inr (.inr (.inr (.inl ⟨_, _, l, r, by simp, rfl⟩)))))))))
  | motStop => cases h; simp
  | wrCmdLo v => simp [isCommand, encode] at hc
  | wrCmdHi v => simp [isCommand, encode] at hc
  | wrIrqPend v => simp [isCommand, encode] at hc
  | wrErr v => simp [isCommand, encode] at hc
  | wrIgnored off v => simp [isCommand, encode] at hc
  | read off => simp [isCommand, encode] at hc

/-- Every command completes, in every state. -/
theorem exec_command_completes {i : Instr} (hc : isCommand i = true) (s : State) : ∃ t, exec i s = .next t := by
  cases i with
  | pwmInit ch p a b => simp only [exec, execPwmInit]; split; · exact ⟨_, rfl⟩
                        split <;> exact ⟨_, rfl⟩
  | pwmUpdate ch idx v => simp only [exec, execPwmUpdate]; split; · exact ⟨_, rfl⟩
                          split <;> exact ⟨_, rfl⟩
  | pwmStop ch => simp only [exec, execPwmStop]; split <;> exact ⟨_, rfl⟩
  | dispInit d => simp only [exec, execDispInit]; split <;> exact ⟨_, rfl⟩
  | wrCmdLo v => simp [isCommand, encode] at hc
  | wrCmdHi v => simp [isCommand, encode] at hc
  | wrIrqPend v => simp [isCommand, encode] at hc
  | wrErr v => simp [isCommand, encode] at hc
  | wrIgnored off v => simp [isCommand, encode] at hc
  | read off => simp [isCommand, encode] at hc
  | _ => exact ⟨_, rfl⟩

/-- Every way a CMD_HI write reaches a next state: the reject of the decoder, or the decoded command (R281). -/
theorem execWrCmdHi_next {v : Word} {s t : State} (h : execWrCmdHi v s = .next t) :
    (∃ r, t = ({ s with cmdHi := v } : State).reject r)
    ∨ ∃ i, decodeCommand (v ++ s.cmdLo) = .ok i ∧ isCommand i = true ∧ exec i { s with cmdHi := v } = .next t := by
  cases hd : decodeCommand (v ++ s.cmdLo) with
  | error r => rw [execWrCmdHi_error hd] at h; cases h; exact .inl ⟨r, rfl⟩
  | ok i => rw [execWrCmdHi_ok hd] at h; exact .inr ⟨i, rfl, isCommand_of_decodeCommand hd, h⟩

end Sys2Proof.Machine
end

