-- ==== Sys2Proof/Machine/HostProgram.lean ====
section
/-! DEFINITION. What a host writes down: the assembler of 30_encoding.md (R119), its pseudo-instructions (R120), and the
boot order of R354. Nothing of the block depends on this file. -/

namespace Sys2Proof.Machine

/-! ## Operands -/

/-- An operand of `n` bits; one that does not fit its field is an assembler error (R119). -/
def fits (n v : Nat) : Option (BitVec n) := if v < 2 ^ n then some (BitVec.ofNat n v) else none

/-- One command from its mnemonic and its operands in the order of R113; `none` is an assembler error. `mon.all` is the
pseudo-instruction of R120. -/
def assemble (mnemonic : String) (operands : List Nat) : Option Instr :=
  match mnemonic, operands with
  | "nop", [] => some .nop
  | "pwm.init", [ch, p, a, b] => do return .pwmInit (← fits 8 ch) (← fits 16 p) (← fits 16 a) (← fits 16 b)
  | "pwm.update", [ch, idx, v] => do return .pwmUpdate (← fits 8 ch) (← fits 8 idx) (← fits 16 v)
  | "pwm.stop", [ch] => do return .pwmStop (← fits 8 ch)
  | "disp.init", [d] => do return .dispInit (← fits 32 d)
  | "disp.stop", [] => some .dispStop
  | "mon.init", [m] => do return .monInit (← fits 8 m)
  | "mon.all", [] => some (.monInit 0xFF)
  | "latch.clear", [] => some .latchClear
  | "mot.fwd", [l, r] => do return .motFwd (← fits 16 l) (← fits 16 r)
  | "mot.bwd", [l, r] => do return .motBwd (← fits 16 l) (← fits 16 r)
  | "mot.left", [l, r] => do return .motLeft (← fits 16 l) (← fits 16 r)
  | "mot.right", [l, r] => do return .motRight (← fits 16 l) (← fits 16 r)
  | "mot.stop", [] => some .motStop
  | _, _ => none

/-! ## A line of assembler text -/

/-- The value of one digit in a base of at most 16. -/
def digit (base : Nat) (c : Char) : Option Nat :=
  let n := c.toNat
  let v := if 48 ≤ n ∧ n ≤ 57 then n - 48 else if 97 ≤ n ∧ n ≤ 102 then n - 87 else if 65 ≤ n ∧ n ≤ 70 then n - 55 else 16
  if v < base then some v else none

/-- The value of a string of digits, most significant first. -/
def digits (base : Nat) (cs : List Char) (acc : Nat) : Option Nat :=
  match cs with
  | [] => some acc
  | c :: rest =>
    match digit base c with
    | none => none
    | some d => digits base rest (base * acc + d)

/-- An unsigned decimal or `0x` hexadecimal number (R119). Digits of either case, a lower-case `x` and leading zeros are read
(DESIGN CHOICE, log 13). -/
def number (cs : List Char) : Option Nat :=
  match cs with
  | [] => none
  | ['0', 'x'] => none
  | '0' :: 'x' :: rest => digits 16 rest 0
  | c :: rest => digits 10 (c :: rest) 0

/-- The text without the spaces at its two ends. -/
def trimSpaces (cs : List Char) : List Char :=
  ((cs.dropWhile (· = ' ')).reverse.dropWhile (· = ' ')).reverse

/-- Operands separated by commas (R119). `cur` holds the operand being read, reversed. The spec is silent on spaces beyond its
examples: spaces around an operand mean nothing, and a space inside one makes it no number, so `mon.init 1 2` is an assembler
error (DESIGN CHOICE, log 13). -/
def operandList (cs cur : List Char) : Option (List Nat) :=
  match cs with
  | [] => (number (trimSpaces cur.reverse)).map ([·])
  | ',' :: rest =>
    match number (trimSpaces cur.reverse), operandList rest [] with
    | some n, some ns => some (n :: ns)
    | _, _ => none
  | c :: rest => operandList rest (c :: cur)

/-- One line: the mnemonic, up to the first space, then its operands (R119; the split is a DESIGN CHOICE, log 13). -/
def assembleLine (line : List Char) : Option Instr :=
  let mnemonic := String.ofList (line.takeWhile (· ≠ ' '))
  match (line.dropWhile (· ≠ ' ')).dropWhile (· = ' ') with
  | [] => assemble mnemonic []
  | rest => (operandList rest []).bind (assemble mnemonic)

/-! ## Pseudo-instructions that are one bus access (R120) -/

/-- `ack m`: clear the IRQ_PEND bits set in `m`. -/
def ack (m : Word) : Event := .hostWrite 4 0x0C m

/-- `errclr`: clear the error record. -/
def errclr : Event := .hostWrite 4 0x10 1

/-- `snap`: read the latch and the bitmap in one access. -/
def snap : Event := .hostRead 4 0x14

/-! ## Boot (R354) -/

/-- Steps 2 to 5 of the boot order, the host accesses that reach the block: both channels, the arm mask, the dispatcher at
the default rate, then the clear of stale state. Steps 1 and 6 are outside the block. -/
def bootEvents (p0 p1 a1 b1 : Half) (m : Byte) : List Event :=
  deliver (.pwmInit 0 p0 0 0) ++ deliver (.pwmInit 1 p1 a1 b1) ++ deliver (.monInit m)
    ++ deliver (.dispInit (BitVec.ofNat 32 Config.defaultDperiod)) ++ [ack 0x7, errclr]

end Sys2Proof.Machine
end

