-- ==== Sys2Proof/Tests/Slice0.lean ====
section
/-! SUPPORT. The model's own tests: the well-formedness smoke, the words of spec/30_encoding.md, one or two steps per
instruction with values from spec/95_test_vectors.md or by hand from the rules, and a witness for the hypotheses of every
obligation that has any. -/

namespace Sys2Proof.Tests

open Sys2Proof Sys2Proof.Machine

/-! ## WellFormed: an ill-formed term for each check -/

theorem test_wellFormed_read_misaligned : (Instr.read 0x12).wellFormed = false := by decide
theorem test_wellFormed_ignored_misaligned : (Instr.wrIgnored 0x15 0).wellFormed = false := by decide
theorem test_wellFormed_ignored_own_row : (Instr.wrIgnored 0x10 0).wellFormed = false := by decide
theorem test_wellFormed_ignored_status : (Instr.wrIgnored 0x08 0).wellFormed = true := by decide
theorem test_exec_ignored_own_row : nextOf (exec (.wrIgnored 0x04 0) State.reset) = none := by decide

/-! ## Decode: words written out from the formats of R110 and from the vectors of 95 -/

theorem test_decode_nop : decode (.command 0x0000000000000000) = .ok .nop := by decide
-- OP 0x10, CH 0x01, PERIOD 0x0064, DUTY_A 0x00FA, DUTY_B 0x0064 (PW2)
theorem test_decode_pwmInit : decode (.command 0x1001006400FA0064) = .ok (.pwmInit 1 100 250 100) := by decide
-- OP 0x11, CH 0x00, IDX 0x01, VALUE 0x4E20 (R157)
theorem test_decode_pwmUpdate : decode (.command 0x1100010000004E20) = .ok (.pwmUpdate 0 1 20000) := by decide
theorem test_decode_pwmStop : decode (.command 0x1201000000000000) = .ok (.pwmStop 1) := by decide
-- OP 0x20, DPERIOD 0xFFFFFFFF (DI9)
theorem test_decode_dispInit : decode (.command 0x20000000FFFFFFFF) = .ok (.dispInit 4294967295) := by decide
theorem test_decode_dispStop : decode (.command 0x2100000000000000) = .ok .dispStop := by decide
theorem test_decode_monInit : decode (.command 0x300000000000003F) = .ok (.monInit 0x3F) := by decide
theorem test_decode_latchClear : decode (.command 0x3100000000000000) = .ok .latchClear := by decide
-- MO10: DUTY_L 50 = 0x0032 above DUTY_R 60 = 0x003C
theorem test_decode_motFwd : decode (.command 0x400000000032003C) = .ok (.motFwd 50 60) := by decide
theorem test_decode_motBwd : decode (.command 0x4100000011941194) = .ok (.motBwd 4500 4500) := by decide
theorem test_decode_motLeft : decode (.command 0x4200000011941194) = .ok (.motLeft 4500 4500) := by decide
theorem test_decode_motRight : decode (.command 0x4300000005DC05DC) = .ok (.motRight 1500 1500) := by decide
theorem test_decode_motStop : decode (.command 0x4400000000000000) = .ok .motStop := by decide
theorem test_decode_wrCmdLo : decode (.access 0x100 0xDEADBEEF) = .ok (.wrCmdLo 0xDEADBEEF) := by decide
theorem test_decode_wrCmdHi : decode (.access 0x104 0x44000000) = .ok (.wrCmdHi 0x44000000) := by decide
theorem test_decode_wrIrqPend : decode (.access 0x10C 7) = .ok (.wrIrqPend 7) := by decide
theorem test_decode_wrErr : decode (.access 0x110 1) = .ok (.wrErr 1) := by decide
theorem test_decode_wrIgnored : decode (.access 0x114 0xFFFFFFFF) = .ok (.wrIgnored 0x14 0xFFFFFFFF) := by decide
theorem test_decode_read : decode (.access 0x048 0) = .ok (.read 0x48) := by decide
theorem test_decode_misaligned : decode (.access 0x103 0) = .error .notAdmitted := by decide
-- HA12: opcodes next to listed ones; PW16 and MO8: a reserved bit
theorem test_decode_badOp : decode (.command 0x4500000000000000) = .error (.reject .badOp) := by decide
theorem test_decode_rsvd_fu : decode (.command 0x1100000000010001) = .error (.reject .rsvd) := by decide
theorem test_decode_rsvd_flr : decode (.command 0x4000010011941194) = .error (.reject .rsvd) := by decide
theorem test_tableWord_command : decodeTableWord 64 0x1200000000000000 = some (.pwmStop 0) := by decide
theorem test_tableWord_access : decodeTableWord 16 0x10C = some (.wrIrqPend 0) := by decide

/-! ## The assembler (R119) -/

theorem test_assemble_operand_too_wide : assemble "mon.init" [256] = none := by decide
theorem test_assemble_space_inside_operand :
    assembleLine ['m','o','n','.','i','n','i','t',' ','1',' ','2'] = none
    ∧ assembleLine ['m','o','n','.','i','n','i','t',' ',' ','1','2',' '] = some (.monInit 12) := by decide
theorem test_assembleLine : assembleLine ['p','w','m','.','s','t','o','p',' ','0','x','1'] = some (.pwmStop 1) := by decide

/-! ## One step per instruction -/

/-- A state with channel 0 as `pwm.init 0, 15000, 7500, 7500` leaves it (PW1). -/
def running : State := { State.reset with pwm0 := ⟨15000, 0, ⟨7500, 7500⟩, ⟨7500, 7500⟩, true⟩ }

/-- A latched state (CO2): line 0 fell, its interrupt is pending. -/
def latched : State :=
  { State.reset with arm := 0xFF, prevLv := 0xFE, latch := true, bitmap := 0x01, bumpPend := true }

/-- A running dispatcher with a tick pending and overrun (DI5). -/
def ticked : State := { State.reset with dperiod := 1, drun := true, tickPend := true, tickOvr := true }

/-- One step on a row of the opcode table. -/
def stepWord (s : State) (nbits w : Nat) : Option State := nextOf (step (s.withFetchWord nbits w))

/-- One step on an event. -/
def stepEvent (s : State) (e : Event) : Option State := nextOf (step (s.placeEvent e))

-- HA3
theorem test_nop : stepWord State.reset 64 0 = some State.reset := by decide
-- PW2: the init duties are clamped to 100
theorem test_pwmInit_clamps : (stepWord State.reset 64 0x1001006400FA0064).map
    (fun t => (readReg t 0x38, readReg t 0x3C, readReg t 0x48)) = some (0x00640064, 0x00640064, 0x0C) := by decide
-- PW7: E_BAD_CH before E_ZERO_PERIOD
theorem test_pwmInit_order : (stepWord State.reset 64 0x1002000000000000).map (readReg · 0x10) = some 0x31 := by decide
-- W7: clamped to 15000, not yet active
theorem test_pwmUpdate : (stepWord running 64 0x1100010000004E20).map (fun t => (readReg t 0x28, readReg t 0x2C))
    = some (0x3A981D4C, 0x1D4C1D4C) := by decide
-- PW18: E_BAD_CH before E_BAD_IDX
theorem test_pwmUpdate_order : (stepWord running 64 0x1102020000000001).map (readReg · 0x10) = some 0x31 := by decide
-- PW12
theorem test_pwmStop : (stepWord running 64 0x1200000000000000).map
    (fun t => (readReg t 0x08, readReg t 0x48, readReg t 0x20, readReg t 0x2C)) = some (0, 0, 0x3A98, 0x1D4C1D4C) := by decide
-- PW19: a stale low half
theorem test_pwmStop_rsvd : (stepWord running 64 0x1200000000000001).map (fun t => (readReg t 0x10, readReg t 0x08))
    = some (0x21, 0x11) := by decide
-- DI6
theorem test_dispInit : (stepWord ticked 64 0x2000000000000001).map
    (fun t => (readReg t 0x0C, readReg t 0x44, readReg t 0x08)) = some (0, 0, 4) := by decide
-- DI8
theorem test_dispInit_zero : (stepWord State.reset 64 0x2000000000000000).map (fun t => (readReg t 0x10, readReg t 0x08))
    = some (0x61, 0x10) := by decide
-- DI7
theorem test_dispStop : (stepWord ticked 64 0x2100000000000000).map
    (fun t => (readReg t 0x0C, readReg t 0x08, readReg t 0x40)) = some (0, 0, 1) := by decide
-- CO12
theorem test_monInit : (stepWord latched 64 0x3000000000000000).map (fun t => (readReg t 0x14, readReg t 0x1C))
    = some (0x101, 0) := by decide
-- CO10
theorem test_latchClear : (stepWord latched 64 0x3100000000000000).map
    (fun t => (readReg t 0x14, readReg t 0x08, readReg t 0x0C)) = some (1, 0, 2) := by decide
-- MO6: left is clamped, right is not
theorem test_motFwd : (stepWord running 64 0x400000004E200064).map (readReg · 0x28) = some 0x00643A98 := by decide
-- MO7: never initialised, the directions still change
theorem test_motBwd : (stepWord State.reset 64 0x4100000000050005).map (fun t => (readReg t 0x28, readReg t 0x48))
    = some (0, 0x30) := by decide
-- MO3
theorem test_motLeft : (stepWord State.reset 64 0x4200000011941194).map (readReg · 0x48) = some 0x10 := by decide
-- MO4
theorem test_motRight : (stepWord State.reset 64 0x4300000005DC05DC).map (readReg · 0x48) = some 0x20 := by decide
-- MO5: the directions and the run bit are kept
theorem test_motStop : (stepWord { running with dirL := true, dirR := true } 64 0x4400000000000000).map
    (fun t => (readReg t 0x28, readReg t 0x48, readReg t 0x08)) = some (0, 0x33, 1) := by decide
-- HA2
theorem test_wrCmdLo : (stepEvent State.reset (.hostWrite 4 0x00 0xDEADBEEF)).map (fun t => (readReg t 0x00, readReg t 0x10))
    = some (0xDEADBEEF, 0) := by decide
-- P5 lines 25 to 28: E_RSVD before E_BAD_CH; the rejected word stays readable
theorem test_wrCmdHi_reject : (stepEvent State.reset (.hostWrite 4 0x04 0x12050001)).map
    (fun t => (readReg t 0x10, readReg t 0x04)) = some (0x21, 0x12050001) := by decide
-- HA13: the first code is kept
theorem test_wrCmdHi_sticky : (stepEvent { State.reset with err := true, errCode := 1 } (.hostWrite 4 0x04 0x10000000)).map
    (readReg · 0x10) = some 0x11 := by decide
-- R285's example
theorem test_wrIrqPend : (stepEvent { latched with tickPend := true } (.hostWrite 4 0x0C 0x2)).map (readReg · 0x0C)
    = some 1 := by decide
-- HA6: bits 31 to 3 are ignored
theorem test_wrIrqPend_ignored : (stepEvent { latched with tickOvr := true } (.hostWrite 4 0x0C 0xFFFFFFF8)).map
    (readReg · 0x0C) = some 6 := by decide
-- HA8 and HA9
theorem test_wrErr_zero : (stepEvent { State.reset with err := true, errCode := 5 } (.hostWrite 4 0x10 0xFFFFFFFE)).map
    (readReg · 0x10) = some 0x51 := by decide
theorem test_wrErr_one : (stepEvent { State.reset with err := true, errCode := 5 } (.hostWrite 4 0x10 1)).map
    (readReg · 0x10) = some 0 := by decide
-- HA10
theorem test_wrIgnored : stepEvent latched (.hostWrite 4 0x14 0xFFFFFFFF) = some latched := by decide
-- HA11: unmapped
theorem test_read_unmapped : (stepEvent running (.hostRead 4 0xFC)).map (·.busRead) = some (some 0) := by decide
-- CO2: LATCH in STATUS
theorem test_read_status : (stepEvent latched (.hostRead 4 0x08)).map (·.busRead) = some (some 8) := by decide

/-! ## Events -/

-- the 15000th tick is the boundary (PW10), the 14999th is not
theorem test_pwmTick_boundary : (stepEvent
    { running with pwm0 := { running.pwm0 with cnt := 14999, shadow := ⟨7500, 1500⟩ } } (.pwmTick .ch0)).map
    (fun t => (readReg t 0x24, readReg t 0x2C)) = some (0, 0x05DC1D4C) := by decide
theorem test_pwmTick_inside : (stepEvent
    { running with pwm0 := { running.pwm0 with cnt := 14998, shadow := ⟨7500, 1500⟩ } } (.pwmTick .ch0)).map
    (fun t => (readReg t 0x24, readReg t 0x2C)) = some (0x3A97, 0x1D4C1D4C) := by decide
-- DI3 and DI5
theorem test_dispTick_wrap : (stepEvent { State.reset with dperiod := 100, dcnt := 99, drun := true } .dispTick).map
    (fun t => (readReg t 0x44, readReg t 0x0C, readReg t 0x48)) = some (0, 1, 0x40) := by decide
theorem test_dispTick_overrun : (stepEvent { ticked with tickOvr := false } .dispTick).map (readReg · 0x0C) = some 5 := by decide
-- CO6: the bitmap includes the unarmed line 1
theorem test_sample_latches : (stepEvent { State.reset with arm := 0x01, prevLv := 0xFD } (.sample 0xFC)).map
    (fun t => (readReg t 0x14, readReg t 0x18)) = some (0x103, 0xFC) := by decide
-- CO9: latched, the edge is ignored
theorem test_sample_latched : (stepEvent latched (.sample 0x00)).map (fun t => (readReg t 0x14, readReg t 0x18))
    = some (0x101, 0) := by decide
-- R350
theorem test_reset_event : stepEvent { latched with cmdLo := 5, pwm0 := running.pwm0 } .reset = some State.reset := by decide
-- R120: the two writes of `pwm.stop 1`
theorem test_deliver : deliver (.pwmStop 1) = [.hostWrite 4 0x00 0, .hostWrite 4 0x04 0x12010000] := by decide
-- R82 and R80
theorem test_halfword_refused : nextOf (step (State.reset.placeEvent (.hostRead 2 0x00))) = none := by decide

/-! ## Witnesses: concrete states and operands that meet each obligation's hypotheses -/

theorem witness_DecodeOfEncodeIsTheInstruction :
    (Instr.wrIgnored 0xFC 5).wellFormed = true ∧ (Instr.read 0x00).wellFormed = true := by decide

theorem witness_DecodedCommandWordIsItsEncoding : decodeCommand 0x11010100000001F4 = .ok (.pwmUpdate 1 1 500) := by decide

theorem witness_CommandDecoderIsTotal :
    opcodeMasks.lookup ((0xFF00000000000000 : DWord).toNat / 2 ^ 56) = none
    ∧ (opcodeMasks.lookup ((0x2000000100000000 : DWord).toNat / 2 ^ 56) = some 0x00FFFFFF00000000
      ∧ (0x2000000100000000 : DWord) &&& 0x00FFFFFF00000000 ≠ 0#64)
    ∧ (0x20000000FFFFFFFF : DWord) &&& 0x00FFFFFF00000000 = 0#64 := by decide

theorem witness_AccessDecoderIsExact : (0x1FF : BitVec 9).toNat % 4 ≠ 0 ∧ (0x1FC : BitVec 9).toNat % 4 = 0 := by decide

theorem witness_StepRunsTheDecodedAccess :
    (State.reset.placeEvent (.hostWrite 4 (0x0C : Byte).toNat 7)).inputs = [.hostWrite 4 (0x0C : Byte).toNat 7]
    ∧ decodeAccess (accessWord true 0x0C) 7 = .ok (.wrIrqPend 7)
    ∧ (State.reset.placeEvent (.hostRead 4 (0x48 : Byte).toNat)).inputs = [.hostRead 4 (0x48 : Byte).toNat]
    ∧ decodeAccess (accessWord false 0x48) 0 = .ok (.read 0x48) := by decide

theorem witness_AccessesThatAreNotAdmittedStop :
    (State.reset.placeEvent (.hostRead 4 0x100)).inputs = [.hostRead 4 0x100]
    ∧ (State.reset.placeEvent (.hostWrite 8 0xFC 0)).inputs = [.hostWrite 8 0xFC 0]
    ∧ (State.reset.placeEvent (.hostWrite 4 0xFF 0)).inputs = [.hostWrite 4 0xFF 0] ∧ 0xFF % 4 ≠ 0 := by decide

theorem witness_AdmittedEventsAlwaysComplete :
    eventAdmitted (State.reset.placeEvent (.hostWrite 4 0xFC 1)).nextEvent = true
    ∧ eventAdmitted (State.reset.placeEvent (.sample 0)).nextEvent = true := by decide

theorem witness_CommandPairRunsTheCommand : encode (.motFwd 50 60) = .command 0x400000000032003C := by decide

theorem witness_ResetClearsEveryField : (latched.placeEvent .reset).inputs = [.reset] := by decide

theorem witness_OutputsLowAndRegistersReadAfterReset : aligned 0x18 = true ∧ aligned 0xFC = true := by decide

/-- The three clauses: stopped, at the boundary (period 1), inside the period. -/
theorem witness_PwmTickCountsAndReloads :
    (State.reset.placeEvent (.pwmTick .ch1)).inputs = [.pwmTick .ch1] ∧ ChanInv (State.reset.chan .ch1)
    ∧ ChanInv ⟨1, 0, ⟨1, 0⟩, ⟨0, 1⟩, true⟩ ∧ (0 : Half).toNat = (1 : Half).toNat - 1
    ∧ ChanInv (running.chan .ch0) ∧ (running.chan .ch0).run = true
    ∧ (running.chan .ch0).cnt.toNat ≠ (running.chan .ch0).period.toNat - 1 := by decide

/-- The clauses of the premises: stopped, active 0, active equal to the period. -/
theorem witness_OutputLevelFollowsCounter :
    ChanInv (State.reset.chan .ch0) ∧ (State.reset.chan .ch0).run = false
    ∧ ChanInv ⟨4, 3, ⟨0, 4⟩, ⟨0, 4⟩, true⟩ ∧ DutyPair.get ⟨0, 4⟩ .a = 0#16 ∧ DutyPair.get ⟨0, 4⟩ .b = 4 := by decide

theorem witness_PwmInitLeavesTheChannelExactly : (1 : Half) ≠ 0#16 ∧ (0xFFFF : Half) ≠ 0#16 := by decide

theorem witness_PwmCommandsRejectBadFields :
    1 < (2 : Byte).toNat ∧ (1 : Byte).toNat ≤ 1 ∧ 1 < (0xFF : Byte).toNat := by decide

theorem witness_HighFractionIsDutyOverPeriod :
    ChanInv (running.chan .ch0) ∧ (running.chan .ch0).run = true ∧ (running.chan .ch0).cnt = 0#16
    ∧ 14999 < (running.chan .ch0).period.toNat := by decide

theorem witness_ShadowBecomesActiveAtTheBoundary :
    ChanInv (running.chan .ch0) ∧ (running.chan .ch0).run = true
    ∧ 15000 ≤ (running.chan .ch0).period.toNat - (running.chan .ch0).cnt.toNat := by decide

/-- Both sides of the boundary, from the last counter value of a period of 2: a sample alone, and a sample and the tick that
ends the period. -/
theorem witness_DutyLatencyAmongOtherEvents :
    ∃ s : State, ChanInv (s.chan .ch1) ∧ (s.chan .ch1).run = true
      ∧ QuietRun .ch1 .b [.sample 0x00, .pwmTick .ch1] s ∧ QuietRun .ch1 .b [.sample 0x00] s
      ∧ [Event.sample 0x00, .pwmTick .ch1].count (.pwmTick .ch1) = (s.chan .ch1).period.toNat - (s.chan .ch1).cnt.toNat
      ∧ [Event.sample 0x00].count (.pwmTick .ch1) < (s.chan .ch1).period.toNat - (s.chan .ch1).cnt.toNat := by
  have quiet : ∀ (s : State) (e : Event), (∀ v, e ≠ .hostWrite 4 0x04 v) → ∀ i, EndsLatency .ch1 .b i →
      ¬ Commits (s.placeEvent e) i := fun s e he i _ ⟨v, hv, _⟩ => he v hv
  refine ⟨{ State.reset with pwm1 := ⟨2, 1, ⟨0, 2⟩, ⟨0, 1⟩, true⟩ }, by decide, rfl, ?_, ?_, by decide, by decide⟩
  · exact ⟨⟨rfl, nofun, quiet _ _ nofun⟩, fun _ _ => ⟨⟨rfl, nofun, quiet _ _ nofun⟩, fun _ _ => trivial⟩⟩
  · exact ⟨⟨rfl, nofun, quiet _ _ nofun⟩, fun _ _ => trivial⟩

theorem witness_OnlyPwmInitWritesThePeriod : ∃ s t : State, step s = .next t ∧ (t.chan .ch0).period ≠ (s.chan .ch0).period :=
  ⟨State.reset.withFetchWord 64 0x1000000400010003, _, rfl, by decide⟩

theorem witness_StoppedChannelStaysSilent : ∃ s t : State, (s.chan .ch0).run = false ∧ step s = .next t :=
  ⟨State.reset.placeEvent (.pwmTick .ch0), _, by decide, rfl⟩

theorem witness_ChannelsAreIndependent :
    ∃ s s' t t' : State, s.chan .ch1 = s'.chan .ch1 ∧ s ≠ s'
      ∧ runEvent (.pwmTick .ch1) s = .next t ∧ runEvent (.pwmTick .ch1) s' = .next t' :=
  ⟨State.reset, running, _, _, by decide, by decide, rfl, rfl⟩

theorem witness_DispInitRestartsTheDispatcher : (1 : Word) ≠ 0#32 ∧ (0xFFFFFFFF : Word) ≠ 0#32 := by decide

/-- The three clauses: stopped, at the wrap (period 1), before it. -/
theorem witness_DispTickWrapsAndPends :
    ((State.reset.placeEvent .dispTick).inputs = [.dispTick] ∧ DispInv State.reset ∧ State.reset.drun = false)
    ∧ (DispInv ticked ∧ ticked.drun = true ∧ ticked.dcnt.toNat = ticked.dperiod.toNat - 1)
    ∧ DispInv { State.reset with dperiod := 100, dcnt := 98, drun := true } ∧ (98 : Word).toNat ≠ (100 : Word).toNat - 1 := by
  decide

/-- A tick and an acknowledge after `disp.init 1`: the next tick wraps; after `disp.init 3` it does not. -/
theorem witness_WrapsComeEveryPeriod :
    (∃ u, (3 : Word) ≠ 0#32 ∧ exec (.dispInit 3) State.reset = .next u)
    ∧ (∀ e ∈ [Event.dispTick, .hostWrite 4 0x0C 1], e = .dispTick ∨ ∃ m, e = .hostWrite 4 0x0C m)
    ∧ ([Event.dispTick, .hostWrite 4 0x0C 1].count .dispTick + 1) % (1 : Word).toNat = 0
    ∧ ([Event.dispTick, .hostWrite 4 0x0C 1].count .dispTick + 1) % (3 : Word).toNat ≠ 0 := by
  refine ⟨⟨_, by decide, rfl⟩, ?_, by decide, by decide⟩
  intro e he
  rcases List.mem_cons.1 he with rfl | he
  · exact .inl rfl
  · exact .inr ⟨1, List.mem_singleton.1 he⟩

/-- Both clauses: a falling edge of an armed line, and a latched state. -/
theorem witness_SampleSetsTheLatchOnAFallingEdge :
    ({ State.reset with arm := 0x80 }.placeEvent (.sample 0x7F)).inputs = [.sample 0x7F]
    ∧ (State.reset.latch = false ∧ ∃ i < 8, State.reset.prevLv.getLsbD i = true ∧ (0x7F : Byte).getLsbD i = false
        ∧ (0x80 : Byte).getLsbD i = true)
    ∧ latched.latch = true := by decide

theorem witness_BitmapIsConstantWhileLatched : ∃ s t : State, s.latch = true ∧ step s = .next t ∧ t.latch = true :=
  ⟨latched.placeEvent (.sample 0x00), _, by decide, rfl, by decide⟩

theorem witness_LaterEdgesOfAnEpisodeAreIgnored : latched.latch = true := by decide

theorem witness_HeldLinesStartNoEpisode :
    ({ latched with latch := false, arm := 0x01 } : State).prevLv &&& 0x01 = 0#8
    ∧ ∀ lv ∈ [(0xFE : Byte), 0x0E], lv &&& 0x01 = 0#8 := by decide

theorem witness_LatchIsSetOnlyByASample : ∃ s t : State, step s = .next t ∧ s.latch = false ∧ t.latch = true :=
  ⟨({ State.reset with arm := 0xFF }).placeEvent (.sample 0xFE), _, rfl, by decide, by decide⟩

theorem witness_LatchIsClearedOnlyByLatchClear : ∃ s t : State, step s = .next t ∧ s.latch = true ∧ t.latch = false :=
  ⟨latched.withFetchWord 64 0x3100000000000000, _, rfl, by decide, by decide⟩

theorem witness_DirectionsChangeOnlyByMotorCommands : ∃ s t : State, step s = .next t ∧ dirLOut t ≠ dirLOut s :=
  ⟨running.withFetchWord 64 0x4200000011941194, _, rfl, by decide⟩

theorem witness_NopChangesNothing : (0x0000000000000001 : DWord).toNat / 2 ^ 56 = 0 ∧ State.reset.cmdLo = 0#32 := by decide

theorem witness_WriteCmdHiExecutesTheCommand :
    (0x1200000000000000 : DWord).toNat = (0x12000000 : Word).toNat * 2 ^ 32 + State.reset.cmdLo.toNat
    ∧ decodeCommand 0x1200000000000000 = .ok (.pwmStop 0) ∧ decodeCommand 0x7F00000000000000 = .error .badOp := by decide

/-- Every code of R311, each at a word of P5 or of the PW and DI vectors, and a word that fails no check. -/
theorem witness_FirstFailingCheckIsRecorded :
    firstFailure 0x7F00000000000000 = 1 ∧ firstFailure 0x4400000000001234 = 2 ∧ firstFailure 0x1102020000000001 = 3
    ∧ firstFailure 0x1100020000000005 = 4 ∧ firstFailure 0x1000000000000000 = 5 ∧ firstFailure 0x2000000000000000 = 6
    ∧ firstFailure 0x1001006400FA0064 = 0
    ∧ (0x7F00000000000000 : DWord).toNat = (0x7F000000 : Word).toNat * 2 ^ 32 + State.reset.cmdLo.toNat := by decide

theorem witness_WriteErrClearsTheRecord : (0xFFFFFFFF : Word).toNat % 2 = 1 ∧ (0xFFFFFFFE : Word).toNat % 2 = 0 := by decide

theorem witness_OtherWritesAreIgnored :
    (0x08 : Byte).toNat % 4 = 0 ∧ (0x08 : Byte) ≠ 0x00#8 ∧ (0x08 : Byte) ≠ 0x04#8 ∧ (0x08 : Byte) ≠ 0x0C#8
    ∧ (0x08 : Byte) ≠ 0x10#8 ∧ (0xFC : Byte).toNat % 4 = 0 := by decide

theorem witness_ReadReturnsTheRegisterMap : (0x48 : Byte).toNat % 4 = 0 ∧ (0x4C : Byte).toNat % 4 = 0 := by decide

/-- One state for each of the five accesses. -/
theorem witness_RepeatedAccessesAreIdempotent :
    (∃ t, exec (.read 0x08) latched = .next t) ∧ (∃ t, exec (.wrCmdLo 5) latched = .next t)
    ∧ (∃ t, exec (.wrIrqPend 2) latched = .next t) ∧ (∃ t, exec (.wrErr 1) latched = .next t)
    ∧ ∃ t, exec (.wrIgnored 0x08 1) latched = .next t :=
  ⟨⟨_, rfl⟩, ⟨_, rfl⟩, ⟨_, rfl⟩, ⟨_, rfl⟩, ⟨_, rfl⟩⟩

theorem witness_ErrorRecordIsSticky : ∃ s t : State, s.err = true ∧ step s = .next t ∧ t.err = false :=
  ⟨({ State.reset with err := true, errCode := 6 }).placeEvent (.hostWrite 4 0x10 1), _, by decide, rfl, by decide⟩

theorem witness_TickLineStaysUntilCleared : ∃ s t : State, tickIrq s = true ∧ step s = .next t ∧ tickIrq t = false :=
  ⟨ticked.withFetchWord 64 0x2100000000000000, _, by decide, rfl, by decide⟩

theorem witness_BumpLineStaysUntilCleared : ∃ s t : State, bumpIrq s = true ∧ step s = .next t ∧ bumpIrq t = false :=
  ⟨latched.placeEvent (.hostWrite 4 0x0C 2), _, by decide, rfl, by decide⟩

theorem witness_EachLineHasItsOwnSource :
    (∃ s t : State, step s = .next t ∧ tickIrq s = false ∧ tickIrq t = true)
    ∧ ∃ s t : State, step s = .next t ∧ bumpIrq s = false ∧ bumpIrq t = true :=
  ⟨⟨({ ticked with tickPend := false }).placeEvent .dispTick, _, rfl, by decide, by decide⟩,
    ({ State.reset with arm := 0xFF }).placeEvent (.sample 0xFE), _, rfl, by decide, by decide⟩

theorem witness_EveryStepKeepsTheStateInvariants : ∃ s t : State, Inv s ∧ step s = .next t :=
  ⟨running.placeEvent (.pwmTick .ch0), _, by decide, rfl⟩

theorem witness_EveryStepKeepsTheErrorRecordLegal : ∃ s t : State, ErrInv s ∧ step s = .next t :=
  ⟨State.reset.withFetchWord 64 0x7F00000000000000, _, by decide, rfl⟩

end Sys2Proof.Tests
end

section
/-! The family 00_scope.md: a step on a placed host access runs the instruction the access decodes to (R10, R82), and
every admitted event completes (R319). The completion is assembled from two facts: an aligned access decodes to a
well-formed instruction, and a well-formed instruction reaches a next state in every state. -/

namespace Sys2Proof.Machine

/-! ## Host accesses -/

/-- A 32-bit access in the window whose access word decodes runs the decoded instruction. -/
theorem runAccess_of_decodeAccess {write : Bool} {off : Byte} {v : Word} {i : Instr}
    (h : decodeAccess (accessWord write off) v = .ok i) (s : State) :
    runAccess write 4 off.toNat v s = exec i s := by
  have hoff : ¬ 0x100 ≤ off.toNat := by have := off.isLt; omega
  simp [runAccess, hoff, h]

/-- Settles O6: the placed event is the one run, and its access runs the instruction it decodes to. -/
theorem stepRunsTheDecodedAccess : Obligations.StepRunsTheDecodedAccess := by
  intro s es off v i
  constructor <;> exact fun hin hdec => (step_of_inputs hin).trans (runAccess_of_decodeAccess hdec _)

/-- An aligned access word is on one of the two masked rows of opcode_table.json: WR_IGNORED or READ. -/
theorem accessWord_masked_of_aligned : ∀ (write : Bool) (off : Byte), aligned off = true →
    accessWord write off &&& 0x103 = 0x100 ∨ accessWord write off &&& 0x103 = 0x000 := by
  decide

/-- An aligned access decodes (R82). -/
theorem exists_decodeAccess_of_aligned (write : Bool) {off : Byte} (v : Word) (h : aligned off = true) :
    ∃ i, decodeAccess (accessWord write off) v = .ok i := by
  unfold decodeAccess
  repeat (split; · exact ⟨_, rfl⟩)
  rcases accessWord_masked_of_aligned write off h with hm | hm <;> contradiction

/-- An access that decodes is an instruction of the table. -/
theorem wellFormed_of_decodeAccess {write : Bool} {off : Byte} {v : Word} {i : Instr}
    (h : decodeAccess (accessWord write off) v = .ok i) : i.wellFormed = true := by
  cases write with
  | true =>
    rcases decodeAccess_write h with ⟨_, rfl⟩ | ⟨_, rfl⟩ | ⟨_, rfl⟩ | ⟨_, rfl⟩ | ⟨ha, ho, rfl⟩
    · rfl
    · rfl
    · rfl
    · rfl
    · simp [Instr.wellFormed, ha, ho]
  | false =>
    obtain ⟨ha, rfl⟩ := decodeAccess_read h
    exact ha

/-! ## Completion -/

/-- A CMD_HI write completes in every state: the decoder's reject is a next state, and so is every decoded command
(R281, R282). -/
theorem execWrCmdHi_completes (v : Word) (s : State) : ∃ t, execWrCmdHi v s = .next t := by
  cases hd : decodeCommand (v ++ s.cmdLo) with
  | error r => exact ⟨_, execWrCmdHi_error hd⟩
  | ok i =>
    rw [execWrCmdHi_ok hd]
    exact exec_command_completes (isCommand_of_decodeCommand hd) _

/-- Every instruction of the table reaches a next state, in every state. -/
theorem exec_completes_of_wellFormed {i : Instr} (h : i.wellFormed = true) (s : State) : ∃ t, exec i s = .next t := by
  cases i with
  | wrCmdLo v => exact ⟨_, rfl⟩
  | wrCmdHi v => exact execWrCmdHi_completes v s
  | wrIrqPend v => exact ⟨_, rfl⟩
  | wrErr v => exact ⟨_, rfl⟩
  | wrIgnored off v =>
    obtain ⟨ha, ho⟩ : aligned off = true ∧ hasOwnWriteRow off = false := by simpa [Instr.wellFormed] using h
    exact ⟨s, by simp [exec, execWrIgnored, ha, ho]⟩
  | read off =>
    have ha : aligned off = true := h
    exact ⟨_, by rw [exec, execRead, if_neg (by simp [ha])]⟩
  | _ => exact exec_command_completes rfl s

/-- An access that R82 admits completes. -/
theorem runAccess_completes (write : Bool) {off : Nat} (v : Word) (s : State) (ha : off % 4 = 0) (hw : off < 0x100) :
    ∃ t, runAccess write 4 off v s = .next t := by
  obtain ⟨off, rfl⟩ : ∃ b : Byte, b.toNat = off := ⟨BitVec.ofNat 8 off, by simp; omega⟩
  obtain ⟨i, hi⟩ := exists_decodeAccess_of_aligned write v (off := off) (by simp [aligned, ha])
  rw [runAccess_of_decodeAccess hi]
  exact exec_completes_of_wellFormed (wellFormed_of_decodeAccess hi) s

/-- An admitted event completes, from every state. -/
theorem runEvent_completes {e : Event} (h : eventAdmitted e = true) (s : State) : ∃ t, runEvent e s = .next t := by
  cases e with
  | hostRead bytes off =>
    obtain ⟨⟨rfl, ha⟩, hw⟩ : (bytes = 4 ∧ off % 4 = 0) ∧ off < 0x100 := by simpa [eventAdmitted] using h
    exact runAccess_completes false 0 s ha hw
  | hostWrite bytes off v =>
    obtain ⟨⟨rfl, ha⟩, hw⟩ : (bytes = 4 ∧ off % 4 = 0) ∧ off < 0x100 := by simpa [eventAdmitted] using h
    exact runAccess_completes true v s ha hw
  | pwmTick c => exact ⟨_, rfl⟩
  | dispTick => exact ⟨_, rfl⟩
  | sample lv => exact ⟨_, rfl⟩
  | reset => exact ⟨_, rfl⟩

/-- Settles O8: the step runs the next event, which completes in every state. -/
theorem admittedEventsAlwaysComplete : Obligations.AdmittedEventsAlwaysComplete := by
  intro s h
  exact runEvent_completes h s.dropEvent

end Sys2Proof.Machine
end

section
/-! The family 10_state.md: what the state keeps along every step. A step is taken apart once, into named cases
(`StepCase`, `CommandEffect`); what it leaves in one PWM channel follows from that (`ChannelStep`), and each statement about
a step is a case analysis over one of the two. -/

namespace Sys2Proof.Machine

/-! ## What a step can do -/

/-- What the command `i`, run in the state `u`, leaves: a reject, or its own effect on its unit. -/
inductive CommandEffect (u : State) : Instr → State → Prop where
  | reject (i : Instr) (r : Reject) : CommandEffect u i (u.reject r)
  | nop : CommandEffect u .nop u
  | pwmInit (c : Chan) (p a b : Half) (hp : p ≠ 0#16) :
      CommandEffect u (.pwmInit (chanField c) p a b) (u.setChan c (PwmChannel.init p a b))
  | pwmUpdate (c : Chan) (o : Out) (v : Half) :
      CommandEffect u (.pwmUpdate (chanField c) (outField o) v) (u.setChan c ((u.chan c).writeShadow o v))
  | pwmStop (c : Chan) : CommandEffect u (.pwmStop (chanField c)) (u.setChan c (u.chan c).stop)
  | dispInit (d : Word) (hd : d ≠ 0#32) :
      CommandEffect u (.dispInit d) { u with dperiod := d, dcnt := 0#32, drun := true, tickPend := false, tickOvr := false }
  | dispStop : CommandEffect u .dispStop { u with drun := false, dcnt := 0#32, tickPend := false, tickOvr := false }
  | monInit (m : Byte) : CommandEffect u (.monInit m) { u with arm := m }
  | latchClear : CommandEffect u .latchClear { u with latch := false }
  | motDrive (i : Instr) (dl dr : Bool) (l r : Half)
      (hi : i = .motFwd l r ∨ i = .motBwd l r ∨ i = .motLeft l r ∨ i = .motRight l r) :
      CommandEffect u i ((u.setDirections dl dr).writeMotorDuties l r)
  | motStop : CommandEffect u .motStop (u.writeMotorDuties 0#16 0#16)

/-- A command that reaches a next state has one of these effects. -/
theorem commandEffect_of_exec {i : Instr} {u t : State} (hc : isCommand i = true) (h : exec i u = .next t) :
    CommandEffect u i t := by
  rcases exec_command_next hc h with ⟨r, rfl⟩ | ⟨rfl, rfl⟩ | ⟨c, p, a, b, rfl, hp, rfl⟩ | ⟨c, o, v, rfl, rfl⟩ | ⟨c, rfl, rfl⟩
    | ⟨d, rfl, hd, rfl⟩ | ⟨rfl, rfl⟩ | ⟨m, rfl, rfl⟩ | ⟨rfl, rfl⟩ | ⟨dl, dr, l, r, hi, rfl⟩ | ⟨rfl, rfl⟩
  · exact .reject i r
  · exact .nop
  · exact .pwmInit c p a b hp
  · exact .pwmUpdate c o v
  · exact .pwmStop c
  · exact .dispInit d hd
  · exact .dispStop
  · exact .monInit m
  · exact .latchClear
  · exact .motDrive i dl dr l r hi
  · exact .motStop

/-- Every way a step reaches a next state: the event it takes, and what that leaves of the state without the event. -/
inductive StepCase (s : State) : State → Prop where
  | pwmTick (c : Chan) (he : s.nextEvent = .pwmTick c) : StepCase s (onPwmTick c s.dropEvent)
  | dispStopped (he : s.nextEvent = .dispTick) (hr : s.drun = false) : StepCase s s.dropEvent
  | dispWrap (he : s.nextEvent = .dispTick) (hr : s.drun = true) (hw : s.dcnt = s.dperiod - 1#32) :
      StepCase s { s.dropEvent with dcnt := 0#32, tickOvr := s.tickOvr || s.tickPend, tickPend := true }
  | dispCount (he : s.nextEvent = .dispTick) (hr : s.drun = true) (hw : s.dcnt ≠ s.dperiod - 1#32) :
      StepCase s { s.dropEvent with dcnt := s.dcnt + 1#32 }
  | sampleKept (lv : Byte) (he : s.nextEvent = .sample lv) (hl : ¬(s.latch = false ∧ falls s.prevLv lv &&& s.arm ≠ 0#8)) :
      StepCase s { s.dropEvent with prevLv := lv }
  | sampleLatched (lv : Byte) (he : s.nextEvent = .sample lv) (hl : s.latch = false ∧ falls s.prevLv lv &&& s.arm ≠ 0#8) :
      StepCase s { s.dropEvent with prevLv := lv, latch := true, bitmap := ~~~lv, bumpPend := true }
  | reset (he : s.nextEvent = .reset) : StepCase s (onReset s.dropEvent)
  | read (off : Nat) (he : s.nextEvent = .hostRead 4 off) :
      StepCase s { s.dropEvent with busRead := some (readReg s.dropEvent (BitVec.ofNat 8 off)) }
  | wrCmdLo (v : Word) (he : s.nextEvent = .hostWrite 4 0x00 v) : StepCase s { s.dropEvent with cmdLo := v }
  | reject (v : Word) (r : Reject) (he : s.nextEvent = .hostWrite 4 0x04 v) :
      StepCase s (({ s.dropEvent with cmdHi := v } : State).reject r)
  | command (v : Word) (i : Instr) (t : State) (hc : Commits s i)
      (hx : CommandEffect { s.dropEvent with cmdHi := v } i t) : StepCase s t
  | wrIrqPend (v : Word) (he : s.nextEvent = .hostWrite 4 0x0C v) :
      StepCase s { s.dropEvent with
        tickPend := s.tickPend && !v.getLsbD 0
        bumpPend := s.bumpPend && !v.getLsbD 1
        tickOvr := s.tickOvr && !v.getLsbD 2 }
  | clearErr (v : Word) (he : s.nextEvent = .hostWrite 4 0x10 v) (hv : v.getLsbD 0 = true) : StepCase s s.dropEvent.clearErr
  /-- a write at an offset without a write row of its own (R287), or to ERR with bit 0 clear (R286) -/
  | ignored (off : Nat) (v : Word) (he : s.nextEvent = .hostWrite 4 off v) : StepCase s s.dropEvent

/-- The dispatcher's tick: stopped, at the wrap, or before it (R193). -/
theorem stepCase_onDispTick {s : State} (he : s.nextEvent = .dispTick) : StepCase s (onDispTick s.dropEvent) := by
  unfold onDispTick
  split
  · next hr => exact .dispStopped he (by simpa using hr)
  · next hr =>
    have hrun : s.drun = true := by simpa using hr
    split
    · next hw => simpa using StepCase.dispWrap he hrun (by simpa using hw)
    · next hw => simpa using StepCase.dispCount he hrun (by simpa using hw)

/-- A sample: with the latch clear and a falling edge of an armed line it latches, else it is kept as the levels (R222). -/
theorem stepCase_onSample {s : State} {lv : Byte} (he : s.nextEvent = .sample lv) : StepCase s (onSample lv s.dropEvent) := by
  unfold onSample
  simp only [dropEvent_latch, dropEvent_prevLv, dropEvent_arm]
  split
  · next hl => simpa using StepCase.sampleLatched lv he hl
  · next hl => simpa using StepCase.sampleKept lv he hl

/-- A CMD_HI write: the decoder's reject, or the command it commits (R281). -/
theorem stepCase_execWrCmdHi {s t : State} {v : Word} (he : s.nextEvent = .hostWrite 4 0x04 v)
    (h : execWrCmdHi v s.dropEvent = .next t) : StepCase s t := by
  rcases execWrCmdHi_next h with ⟨r, rfl⟩ | ⟨i, hd, hi, hx⟩
  · exact .reject v r he
  · rw [dropEvent_cmdLo] at hd
    exact .command v i t ⟨v, he, hd⟩ (commandEffect_of_exec hi hx)

/-- A step that reaches a next state is one of these cases. -/
theorem stepCase_of_step {s t : State} (h : step s = .next t) : StepCase s t := by
  rcases runEvent_next h with ⟨c, he, rfl⟩ | ⟨he, rfl⟩ | ⟨lv, he, rfl⟩ | ⟨he, rfl⟩ | ⟨off, he, rfl⟩ | ⟨v, he, rfl⟩ | ⟨v, he, hx⟩
    | ⟨v, he, hx⟩ | ⟨v, he, rfl⟩ | ⟨off, v, he, rfl⟩
  · exact .pwmTick c he
  · exact stepCase_onDispTick he
  · exact stepCase_onSample he
  · exact .reset he
  · exact .read off he
  · exact .wrCmdLo v he
  · exact stepCase_execWrCmdHi he hx
  · cases hx
    simpa using StepCase.wrIrqPend v he
  · split
    · exact .clearErr v he ‹_›
    · exact .ignored _ v he
  · exact .ignored off v he

/-! ## What a step leaves in one channel -/

/-- Every way a step leaves the channel `c` of `s` as `q`. -/
inductive ChannelStep (s : State) (c : Chan) (q : PwmChannel) : Prop where
  | kept (hq : q = s.chan c)
  | tick (he : s.nextEvent = .pwmTick c) (hq : q = (s.chan c).tick)
  | reset (he : s.nextEvent = .reset) (hq : q = PwmChannel.reset)
  | init (p a b : Half) (hp : p ≠ 0#16) (hc : Commits s (.pwmInit (chanField c) p a b)) (hq : q = PwmChannel.init p a b)
  | update (o : Out) (v : Half) (hc : Commits s (.pwmUpdate (chanField c) (outField o) v)) (hq : q = (s.chan c).writeShadow o v)
  | stop (hc : Commits s (.pwmStop (chanField c))) (hq : q = (s.chan c).stop)
  | motDrive (i : Instr) (l r : Half) (h0 : c = .ch0)
      (hi : i = .motFwd l r ∨ i = .motBwd l r ∨ i = .motLeft l r ∨ i = .motRight l r)
      (hc : Commits s i) (hq : q = ((s.chan c).writeShadow .a l).writeShadow .b r)
  | motStop (h0 : c = .ch0) (hc : Commits s .motStop) (hq : q = ((s.chan c).writeShadow .a 0#16).writeShadow .b 0#16)

/-- The channels are read off the two register files alone. -/
theorem chan_congr {s u : State} (h0 : u.pwm0 = s.pwm0) (h1 : u.pwm1 = s.pwm1) (c : Chan) : u.chan c = s.chan c := by
  cases c
  · exact h0
  · exact h1

theorem chan_setChan_of_ne {c c' : Chan} (h : c ≠ c') (s : State) (p : PwmChannel) : (s.setChan c' p).chan c = s.chan c := by
  match c, c' with
  | .ch0, .ch0 | .ch1, .ch1 => exact absurd rfl h
  | .ch0, .ch1 | .ch1, .ch0 => rfl

/-- Writing one channel is a step of that channel and keeps the other. -/
theorem channelStep_setChan {s u : State} {c' : Chan} {q : PwmChannel} (hu : ∀ c, u.chan c = s.chan c)
    (h : ChannelStep s c' q) (c : Chan) : ChannelStep s c ((u.setChan c' q).chan c) := by
  by_cases hcc : c = c'
  · subst hcc; rwa [chan_setChan_same]
  · exact .kept (by rw [chan_setChan_of_ne hcc, hu])

/-- The motor pair is channel 0 (R251). -/
theorem writeMotorDuties_eq_setChan (s : State) (l r : Half) :
    s.writeMotorDuties l r = s.setChan .ch0 (((s.chan .ch0).writeShadow .a l).writeShadow .b r) := rfl

/-- What a committed command leaves in a channel. -/
theorem channelStep_of_commandEffect {s u t : State} {i : Instr} (hu : ∀ c, u.chan c = s.chan c) (hc : Commits s i)
    (hx : CommandEffect u i t) (c : Chan) : ChannelStep s c (t.chan c) := by
  cases hx with
  | pwmInit c' p a b hp => exact channelStep_setChan hu (.init p a b hp hc rfl) c
  | pwmUpdate c' o v => exact channelStep_setChan hu (.update o v hc (by rw [hu])) c
  | pwmStop c' => exact channelStep_setChan hu (.stop hc (by rw [hu])) c
  | motDrive _ dl dr l r hi =>
    have hdir : ∀ c, (u.setDirections dl dr).chan c = s.chan c := hu
    rw [writeMotorDuties_eq_setChan]
    exact channelStep_setChan hdir (.motDrive i l r rfl hi hc (by rw [hdir])) c
  | motStop =>
    rw [writeMotorDuties_eq_setChan]
    exact channelStep_setChan hu (.motStop rfl hc (by rw [hu])) c
  | _ => exact .kept ((chan_congr (by simp) (by simp) c).trans (hu c))

/-- What a step leaves in a channel. -/
theorem channelStep_of_step {s t : State} (h : step s = .next t) (c : Chan) : ChannelStep s c (t.chan c) := by
  have hdrop : ∀ c, s.dropEvent.chan c = s.chan c := chan_congr (dropEvent_pwm0 s) (dropEvent_pwm1 s)
  cases stepCase_of_step h with
  | pwmTick c' he => exact channelStep_setChan hdrop (.tick he (by rw [hdrop])) c
  | reset he => exact .reset he (by cases c <;> rfl)
  | command v i t hc hx => exact channelStep_of_commandEffect (chan_congr (by simp) (by simp)) hc hx c
  | _ => exact .kept (chan_congr (by simp) (by simp) c)

/-! ## Periods and counters -/

/-- A period that is not 0, as a number. -/
theorem one_le_toNat_of_ne_zero {w : Nat} {p : BitVec w} (h : p ≠ 0#w) : 1 ≤ p.toNat :=
  Nat.one_le_iff_ne_zero.2 fun h0 => h (BitVec.eq_of_toNat_eq (by simpa using h0))

/-- 0 is a counter value of every period that is not 0. -/
theorem zero_lt_period {w : Nat} {p : BitVec w} (h : 1 ≤ p.toNat) : 0#w < p := by
  rw [BitVec.lt_def, BitVec.toNat_ofNat, Nat.zero_mod]; exact h

/-- A counter that is not yet at `period - 1` counts to a value below the period. -/
theorem succ_lt_of_ne_pred {w : Nat} {c p : BitVec (w + 1)} (hp : 1 ≤ p.toNat) (hlt : c < p) (hne : c ≠ p - 1#(w + 1)) :
    c + 1#(w + 1) < p := by
  have hb := p.isLt
  have hc : c.toNat ≠ p.toNat - 1 := fun h => hne (BitVec.eq_of_toNat_eq (h.trans (toNat_pred hp).symm))
  rw [BitVec.lt_def] at hlt
  rw [BitVec.lt_def, toNat_succ (by omega)]
  omega

/-! ## The invariants of one channel, I1 to I3 -/

theorem chanInv_init {p : Half} (a b : Half) (hp : p ≠ 0#16) : ChanInv (PwmChannel.init p a b) := by
  have hpos := one_le_toNat_of_ne_zero hp
  exact ⟨⟨clamp_le a p, clamp_le b p, clamp_le a p, clamp_le b p⟩, fun _ => ⟨hpos, zero_lt_period hpos⟩, nofun⟩

/-- The clamp keeps a written duty within the period. -/
theorem chanInv_writeShadow {p : PwmChannel} (h : ChanInv p) (o : Out) (v : Half) : ChanInv (p.writeShadow o v) := by
  obtain ⟨⟨hsa, hsb, hact⟩, hrun⟩ := h
  cases o with
  | a => exact ⟨⟨clamp_le v p.period, hsb, hact⟩, hrun⟩
  | b => exact ⟨⟨hsa, clamp_le v p.period, hact⟩, hrun⟩

theorem chanInv_stop {p : PwmChannel} (h : ChanInv p) : ChanInv p.stop := by
  obtain ⟨hduty, -, -⟩ := h
  exact ⟨hduty, nofun, fun _ => rfl⟩

/-- A tick keeps the counter below the period, and takes the active duties from the shadows. -/
theorem chanInv_tick {p : PwmChannel} (h : ChanInv p) : ChanInv p.tick := by
  obtain ⟨hduty, hrun, hstop⟩ := h
  cases hr : p.run with
  | false => rw [tick_stopped hr]; exact ⟨hduty, hrun, hstop⟩
  | true =>
    obtain ⟨hpos, hlt⟩ := hrun hr
    rw [BitVec.lt_def] at hlt
    by_cases hb : p.cnt.toNat + 1 = p.period.toNat
    · rw [tick_boundary hr hb]
      obtain ⟨hsa, hsb, -⟩ := hduty
      exact ⟨⟨hsa, hsb, hsa, hsb⟩, fun _ => ⟨hpos, zero_lt_period hpos⟩, fun _ => rfl⟩
    · obtain ⟨htick, hcnt⟩ := tick_inside hr (by omega)
      rw [htick]
      have hlt' : p.cnt + 1#16 < p.period := by rw [BitVec.lt_def, hcnt]; omega
      exact ⟨hduty, fun _ => ⟨hpos, hlt'⟩, fun hf => nomatch hr.symm.trans hf⟩

/-- A step keeps the invariants of each channel. -/
theorem chanInv_of_channelStep {s : State} {c : Chan} {q : PwmChannel} (hi : ChanInv (s.chan c)) (h : ChannelStep s c q) :
    ChanInv q := by
  cases h with
  | kept hq => rwa [hq]
  | tick he hq => rw [hq]; exact chanInv_tick hi
  | reset he hq => rw [hq]; decide
  | init p a b hp hc hq => rw [hq]; exact chanInv_init a b hp
  | update o v hc hq => rw [hq]; exact chanInv_writeShadow hi o v
  | stop hc hq => rw [hq]; exact chanInv_stop hi
  | motDrive i l r h0 hm hc hq => rw [hq]; exact chanInv_writeShadow (chanInv_writeShadow hi .a l) .b r
  | motStop h0 hc hq => rw [hq]; exact chanInv_writeShadow (chanInv_writeShadow hi .a _) .b _

/-! ## The invariants of the dispatcher, I4 and I5 -/

/-- What a committed command leaves of the dispatcher meets its invariants. -/
theorem dispInv_of_commandEffect {u t : State} {i : Instr} (h : DispInv u) (hx : CommandEffect u i t) : DispInv t := by
  cases hx with
  | dispInit d hd =>
    have hpos := one_le_toNat_of_ne_zero hd
    exact ⟨fun _ => ⟨hpos, zero_lt_period hpos⟩, nofun⟩
  | dispStop => exact ⟨nofun, fun _ => ⟨rfl, rfl, rfl⟩⟩
  | _ => simpa [DispInv] using h

/-- Every step keeps the dispatcher's invariants: the count stays below the period, and nothing pends while it is stopped. -/
theorem dispInv_of_step {s t : State} (hi : DispInv s) (h : step s = .next t) : DispInv t := by
  have hdrop : DispInv s.dropEvent := by simpa [DispInv] using hi
  obtain ⟨hrun, hstop⟩ := hi
  cases stepCase_of_step h with
  | dispWrap he hr hw =>
    obtain ⟨hpos, -⟩ := hrun hr
    refine ⟨fun _ => ?_, fun hf => absurd hf (by simp [hr])⟩
    simp only [dropEvent_dperiod]
    exact ⟨hpos, zero_lt_period hpos⟩
  | dispCount he hr hw =>
    obtain ⟨hpos, hlt⟩ := hrun hr
    refine ⟨fun _ => ?_, fun hf => absurd hf (by simp [hr])⟩
    simp only [dropEvent_dperiod]
    exact ⟨hpos, succ_lt_of_ne_pred hpos hlt hw⟩
  | reset he => exact ⟨nofun, fun _ => ⟨rfl, rfl, rfl⟩⟩
  | command v i t hc hx => exact dispInv_of_commandEffect (u := { s.dropEvent with cmdHi := v }) hdrop hx
  | wrIrqPend v he =>
    obtain ⟨hrun', -⟩ := hdrop
    refine ⟨hrun', fun hf => ?_⟩
    obtain ⟨hcnt, hpend, hovr⟩ := hstop (by simpa using hf)
    simp [hcnt, hpend, hovr]
  | _ => simpa [DispInv, onPwmTick] using hdrop

/-- Settles O52: I1 to I3 by what a step leaves in each channel, I4 and I5 by what it leaves of the dispatcher. -/
theorem everyStepKeepsTheStateInvariants : Obligations.EveryStepKeepsTheStateInvariants := by
  intro s t ⟨h0, h1, hd⟩ h
  exact ⟨chanInv_of_channelStep (c := .ch0) h0 (channelStep_of_step h .ch0),
    chanInv_of_channelStep (c := .ch1) h1 (channelStep_of_step h .ch1), dispInv_of_step hd h⟩

/-- Settles O54: the values of R32 are within the invariants. -/
theorem resetMeetsTheInvariants : Obligations.ResetMeetsTheInvariants := by
  unfold Obligations.ResetMeetsTheInvariants
  decide

/-! ## What writes the period and the latch -/

/-- Settles O21: no other case of a channel's step writes the period. -/
theorem onlyPwmInitWritesThePeriod : Obligations.OnlyPwmInitWritesThePeriod := by
  intro s t c h hne
  cases channelStep_of_step h c with
  | reset he hq => exact .inl he
  | init p a b hp hc hq => exact .inr ⟨p, a, b, hc⟩
  | kept hq => exact absurd (by rw [hq]) hne
  | tick he hq => exact absurd (by rw [hq, tick_period]) hne
  | update o v hc hq => exact absurd (by rw [hq, writeShadow_period]) hne
  | stop hc hq => exact absurd (by rw [hq, stop_period]) hne
  | motDrive i l r h0 hm hc hq => exact absurd (by rw [hq, writeShadow_period, writeShadow_period]) hne
  | motStop h0 hc hq => exact absurd (by rw [hq, writeShadow_period, writeShadow_period]) hne

/-- Every way a step leaves the latch and its record: kept, set by a sample that captures the levels, or cleared. -/
inductive LatchStep (s t : State) : Prop where
  | kept (hl : t.latch = s.latch) (hb : t.bitmap = s.bitmap)
  | set (lv : Byte) (he : s.nextEvent = .sample lv) (hs : s.latch = false) (hl : t.latch = true) (hb : t.bitmap = ~~~lv)
      (hp : t.bumpPend = true)
  | clear (hc : Commits s .latchClear) (hl : t.latch = false) (hb : t.bitmap = s.bitmap)
  | reset (he : s.nextEvent = .reset) (hl : t.latch = false) (hb : t.bitmap = 0x00)

/-- What a step leaves of the latch (R34). -/
theorem latchStep_of_step {s t : State} (h : step s = .next t) : LatchStep s t := by
  cases stepCase_of_step h with
  | sampleLatched lv he hl => exact .set lv he hl.1 rfl rfl rfl
  | reset he => exact .reset he rfl rfl
  | command v i t hc hx =>
    cases hx with
    | latchClear => exact .clear hc rfl (by simp)
    | _ => exact .kept (by simp) (by simp)
  | _ => exact .kept (by simp [onPwmTick]) (by simp [onPwmTick])

/-- Settles O34: only the sample's case goes from a clear latch to a set one. -/
theorem latchIsSetOnlyByASample : Obligations.LatchIsSetOnlyByASample := by
  intro s t h hs ht
  cases latchStep_of_step h with
  | set lv he _ _ hb hp => exact ⟨⟨lv, he, hb⟩, hp⟩
  | kept hl => simp [hl, hs] at ht
  | clear _ hl => simp [hl] at ht
  | reset _ hl => simp [hl] at ht

/-- Settles O35: only `latch.clear` and the reset go from a set latch to a clear one. -/
theorem latchIsClearedOnlyByLatchClear : Obligations.LatchIsClearedOnlyByLatchClear := by
  intro s t h hs ht
  cases latchStep_of_step h with
  | clear hc => exact .inr hc
  | reset he => exact .inl he
  | kept hl => simp [hl, hs] at ht
  | set _ _ hs' => simp [hs] at hs'

end Sys2Proof.Machine
end

section
/-! The family 20_memory.md: the access decoder takes the aligned access words alone and each of them exactly (R82), every
other host access stops (R82, U10, log 4), and an admitted access other than a CMD_HI write can be repeated without a further
change (R84). -/

namespace Sys2Proof.Machine

/-! ## The access decoder is exact -/

/-- Every access word is the word of its write bit and its offset. -/
theorem accessWord_getLsbD_fieldOff : ∀ a : BitVec 9, accessWord (a.getLsbD 8) (fieldOff a) = a := by
  decide

theorem toNat_accessWord : ∀ (write : Bool) (off : Byte),
    (accessWord write off).toNat = (if write then 256 else 0) + off.toNat := by
  decide

/-- An access that decodes is aligned. -/
theorem aligned_of_decodeAccess {write : Bool} {off : Byte} {v : Word} {i : Instr}
    (h : decodeAccess (accessWord write off) v = .ok i) : aligned off = true := by
  cases write with
  | true =>
    rcases decodeAccess_write h with ⟨rfl, _⟩ | ⟨rfl, _⟩ | ⟨rfl, _⟩ | ⟨rfl, _⟩ | ⟨ha, _, _⟩
    · rfl
    · rfl
    · rfl
    · rfl
    · exact ha
  | false => exact (decodeAccess_read h).1

/-- What an access decodes to has that access as its code; a read carries no data. -/
theorem encode_of_decodeAccess {write : Bool} {off : Byte} {v : Word} {i : Instr}
    (h : decodeAccess (accessWord write off) v = .ok i) :
    encode i = .access (accessWord write off) (if write then v else 0) := by
  cases write with
  | true =>
    rcases decodeAccess_write h with ⟨rfl, rfl⟩ | ⟨rfl, rfl⟩ | ⟨rfl, rfl⟩ | ⟨rfl, rfl⟩ | ⟨_, _, rfl⟩ <;> rfl
  | false =>
    obtain ⟨_, rfl⟩ := decodeAccess_read h
    rfl

/-- The access decoder fails for one reason alone. -/
theorem eq_notAdmitted_of_decodeAccess {a : BitVec 9} {v : Word} {e : DecodeError} (h : decodeAccess a v = .error e) :
    e = .notAdmitted := by
  unfold decodeAccess at h
  repeat (split at h; · cases h)
  cases h
  rfl

/-- A misaligned access does not decode (R82): had it decoded, it would be aligned. -/
theorem decodeAccess_of_not_aligned (write : Bool) {off : Byte} (v : Word) (h : aligned off = false) :
    decodeAccess (accessWord write off) v = .error .notAdmitted := by
  cases hd : decodeAccess (accessWord write off) v with
  | ok i => simp [aligned_of_decodeAccess hd] at h
  | error e => rw [eq_notAdmitted_of_decodeAccess hd]

/-- Settles O5: the access word is taken apart into its write bit and offset; its value modulo 4 is the offset's. -/
theorem accessDecoderIsExact : Obligations.AccessDecoderIsExact := by
  intro a v
  obtain ⟨write, off, rfl⟩ : ∃ write off, accessWord write off = a := ⟨_, _, accessWord_getLsbD_fieldOff a⟩
  have hoff := off.isLt
  have hmod : (accessWord write off).toNat % 4 = off.toNat % 4 := by rw [toNat_accessWord]; split <;> omega
  have hdata : (if (accessWord write off).toNat < 256 then 0 else v) = if write then v else 0 := by
    rw [toNat_accessWord]
    cases write
    · simp [hoff]
    · simp
  rw [hmod, hdata]
  constructor
  · intro hm
    exact decodeAccess_of_not_aligned write v (by simpa [aligned] using hm)
  · intro hm
    obtain ⟨i, hi⟩ := exists_decodeAccess_of_aligned write v (off := off) (by simpa [aligned] using hm)
    exact ⟨i, hi, wellFormed_of_decodeAccess hi, encode_of_decodeAccess hi⟩

/-! ## Accesses that stop -/

theorem runAccess_of_outsideWindow (write : Bool) (bytes : Nat) {off : Nat} (v : Word) (s : State) (h : 0x100 ≤ off) :
    runAccess write bytes off v s = .fault .outsideWindow := by
  rw [runAccess, if_pos h]

/-- An access in the window of another width or alignment is refused (R82). -/
theorem runAccess_of_not_word (write : Bool) {bytes off : Nat} (v : Word) (s : State) (hw : off < 0x100)
    (h : bytes ≠ 4 ∨ off % 4 ≠ 0) : runAccess write bytes off v s = .refused .notWordAccess := by
  rw [runAccess, if_neg (by omega)]
  split
  · rfl
  · next hb =>
    have ha : aligned (BitVec.ofNat 8 off) = false := by
      have hm : off % 4 ≠ 0 := h.resolve_left hb
      simpa [aligned, Nat.mod_eq_of_lt hw] using hm
    rw [decodeAccess_of_not_aligned write v ha]

/-- A step with a placed host access runs that access, whether it writes or reads. -/
theorem step_eq_runAccess {s : State} {es : List Event} {bytes off : Nat} {v : Word}
    (h : s.inputs = .hostWrite bytes off v :: es ∨ s.inputs = .hostRead bytes off :: es) :
    ∃ write d, step s = runAccess write bytes off d { s with inputs := es } := by
  rcases h with hin | hin
  · exact ⟨true, v, step_of_inputs hin⟩
  · exact ⟨false, 0, step_of_inputs hin⟩

/-- Settles O7: the placed access is the one run, and it stops before it reaches an instruction. -/
theorem accessesThatAreNotAdmittedStop : Obligations.AccessesThatAreNotAdmittedStop := by
  intro s es bytes off v hin
  obtain ⟨write, d, hstep⟩ := step_eq_runAccess hin
  rw [hstep]
  exact ⟨runAccess_of_outsideWindow write bytes d _, runAccess_of_not_word write d _⟩

/-! ## Repeated accesses -/

/-- A read that reaches a next state was aligned, and leaves the register's value with the host (R284). -/
theorem execRead_eq_next_iff {off : Byte} {s t : State} :
    execRead off s = .next t ↔ aligned off = true ∧ t = { s with busRead := some (readReg s off) } := by
  unfold execRead
  cases aligned off <;> simp [eq_comm]

/-- No register reads the value the host holds (log 2). -/
@[simp] theorem readReg_busRead (s : State) (r : Option Word) (off : Byte) :
    readReg { s with busRead := r } off = readReg s off := rfl

theorem execRead_idempotent {off : Byte} {s t : State} (h : execRead off s = .next t) : execRead off t = .next t := by
  obtain ⟨ha, rfl⟩ := execRead_eq_next_iff.mp h
  exact execRead_eq_next_iff.mpr ⟨ha, by simp⟩

/-- Clearing the same flags again clears nothing more: a flag is kept where the data bit is 0. -/
theorem execWrIrqPend_idempotent {v : Word} {s t : State} (h : execWrIrqPend v s = .next t) : execWrIrqPend v t = .next t := by
  cases h
  simp [execWrIrqPend]

/-- Clearing a clear record leaves it clear; with bit 0 clear nothing is written. -/
theorem execWrErr_idempotent {v : Word} {s t : State} (h : execWrErr v s = .next t) : execWrErr v t = .next t := by
  cases h
  unfold execWrErr
  split <;> rfl

/-- An ignored write that reaches a next state has changed nothing (R287). -/
theorem eq_of_execWrIgnored {off : Byte} {v : Word} {s t : State} (h : execWrIgnored off v s = .next t) : t = s := by
  unfold execWrIgnored at h
  split at h
  · cases h
  · split at h
    · cases h
    · cases h; rfl

/-- Settles O47: each of the five accesses is idempotent, and the read writes `busRead` alone. -/
theorem repeatedAccessesAreIdempotent : Obligations.RepeatedAccessesAreIdempotent := by
  intro s t off v i hi h
  rcases hi with rfl | rfl | rfl | rfl | rfl
  · refine ⟨execRead_idempotent h, fun _ => ?_⟩
    obtain ⟨-, rfl⟩ := execRead_eq_next_iff.mp h
    rfl
  · cases h
    exact ⟨rfl, nofun⟩
  · exact ⟨execWrIrqPend_idempotent h, nofun⟩
  · exact ⟨execWrErr_idempotent h, nofun⟩
  · obtain rfl := eq_of_execWrIgnored (v := v) h
    exact ⟨h, nofun⟩

end Sys2Proof.Machine
end

section
/-! The family 30_encoding.md: the command decoder and the encoder invert each other (R110 to R117), placed events run in
the order placed (R121, log 1), and the two host writes of a command run it (R120). The codec is proved once per format,
for every opcode of it: the fields of an assembled word are the operands, and a word without a reserved bit is the word
assembled from its fields. -/

namespace Sys2Proof.Machine

/-! ## Reserved bits (R114) -/

/-- The lowest reserved bit of a format. -/
def rsvLsb (f : Format) : Nat :=
  match f with
  | .fi | .fc | .fn => 0
  | .fu => 16
  | .fd | .flr => 32
  | .fm => 8

/-- How many bits a format reserves. -/
def rsvLen (f : Format) : Nat :=
  match f with
  | .fi => 0
  | .fu | .fd | .flr => 24
  | .fc | .fm => 48
  | .fn => 56

/-- The reserved bits of a format are one field of ones. -/
theorem rsvMask_eq_put (f : Format) : rsvMask f = put (rsvLsb f) (BitVec.allOnes (rsvLen f)) := by
  cases f <;> decide

/-- Masking a word by the reserved bits of a format leaves its reserved field in place. -/
theorem and_rsvMask (w : DWord) (f : Format) :
    w &&& rsvMask f = put (rsvLsb f) (w.extractLsb' (rsvLsb f) (rsvLen f)) := by
  rw [rsvMask_eq_put, and_put_ones w _ (by cases f <;> decide)]

theorem and_rsvMask_eq_zero {w : DWord} {f : Format} (h : w.extractLsb' (rsvLsb f) (rsvLen f) = 0#_) :
    w &&& rsvMask f = 0#64 := by
  rw [and_rsvMask, h, put_zero]

/-! ## Decoding by the row of the opcode (R117) -/

theorem decodeCommand_of_opcodeRow {w : DWord} {f : Format} {i : Instr} (hrow : opcodeRow (fieldOp w) w = some (f, i)) :
    decodeCommand w = if w &&& rsvMask f = 0#64 then .ok i else .error .rsvd := by
  rw [decodeCommand, hrow]

/-- A word that decodes has a listed opcode and no reserved bit of its format. -/
theorem exists_opcodeRow_of_decodeCommand {w : DWord} {i : Instr} (h : decodeCommand w = .ok i) :
    ∃ f, opcodeRow (fieldOp w) w = some (f, i) ∧ w &&& rsvMask f = 0#64 := by
  unfold decodeCommand at h
  split at h
  · cases h
  · next f j hrow =>
    split at h
    · next hrsv => cases h; exact ⟨f, hrow, hrsv⟩
    · cases h

/-- `opcodeMasks` is the opcode map with the reserved mask of each row's format. -/
theorem opcodeMasks_lookup (op : Byte) (w : DWord) :
    opcodeMasks.lookup op.toNat = (opcodeRow op w).map fun row => rsvMask row.1 := by
  unfold opcodeRow
  split
  case h_14 => simp_all [opcodeMasks, List.lookup_eq_none_iff]
  all_goals next hop => rw [hop]; rfl

theorem fieldOp_toNat (w : DWord) : (fieldOp w).toNat = w.toNat / 2 ^ 56 := by
  have hw := w.isLt
  simp only [fieldOp, BitVec.extractLsb'_toNat, Nat.shiftRight_eq_div_pow]
  omega

/-! ## The fields of an assembled word are its operands (R110) -/

theorem fields_wordFI (op ch : Byte) (period a b : Half) :
    fieldOp (wordFI op ch period a b) = op ∧ fieldCh (wordFI op ch period a b) = ch
    ∧ fieldPeriod (wordFI op ch period a b) = period ∧ fieldHigh (wordFI op ch period a b) = a
    ∧ fieldLow (wordFI op ch period a b) = b := by
  simp [wordFI, fieldOp, fieldCh, fieldPeriod, fieldHigh, fieldLow, BitVec.extractLsb'_or, extract_put_same,
    extract_put_disjoint]

theorem fields_wordFU (op ch idx : Byte) (value : Half) :
    fieldOp (wordFU op ch idx value) = op ∧ fieldCh (wordFU op ch idx value) = ch
    ∧ fieldIdx (wordFU op ch idx value) = idx ∧ fieldLow (wordFU op ch idx value) = value
    ∧ (wordFU op ch idx value).extractLsb' 16 24 = 0#24 := by
  simp [wordFU, fieldOp, fieldCh, fieldIdx, fieldLow, BitVec.extractLsb'_or, extract_put_same, extract_put_disjoint]

theorem fields_wordFC (op ch : Byte) :
    fieldOp (wordFC op ch) = op ∧ fieldCh (wordFC op ch) = ch ∧ (wordFC op ch).extractLsb' 0 48 = 0#48 := by
  simp [wordFC, fieldOp, fieldCh, BitVec.extractLsb'_or, extract_put_same, extract_put_disjoint]

theorem fields_wordFD (op : Byte) (dperiod : Word) :
    fieldOp (wordFD op dperiod) = op ∧ fieldDperiod (wordFD op dperiod) = dperiod
    ∧ (wordFD op dperiod).extractLsb' 32 24 = 0#24 := by
  simp [wordFD, fieldOp, fieldDperiod, BitVec.extractLsb'_or, extract_put_same, extract_put_disjoint]

theorem fields_wordFM (op mask : Byte) :
    fieldOp (wordFM op mask) = op ∧ fieldMask (wordFM op mask) = mask ∧ (wordFM op mask).extractLsb' 8 48 = 0#48 := by
  simp [wordFM, fieldOp, fieldMask, BitVec.extractLsb'_or, extract_put_same, extract_put_disjoint]

theorem fields_wordFLR (op : Byte) (l r : Half) :
    fieldOp (wordFLR op l r) = op ∧ fieldHigh (wordFLR op l r) = l ∧ fieldLow (wordFLR op l r) = r
    ∧ (wordFLR op l r).extractLsb' 32 24 = 0#24 := by
  simp [wordFLR, fieldOp, fieldHigh, fieldLow, BitVec.extractLsb'_or, extract_put_same, extract_put_disjoint]

theorem fields_wordFN (op : Byte) : fieldOp (wordFN op) = op ∧ (wordFN op).extractLsb' 0 56 = 0#56 := by
  simp [wordFN, fieldOp, extract_put_same, extract_put_disjoint]

/-! ## Decoding an encoded instruction -/

/-- A word decodes to the command of its opcode's row once its reserved field is 0. -/
theorem decodeCommand_of_fields {w : DWord} {op : Byte} {f : Format} {i : Instr} (hop : fieldOp w = op)
    (hrow : opcodeRow op w = some (f, i)) (hrsv : w.extractLsb' (rsvLsb f) (rsvLen f) = 0#_) : decodeCommand w = .ok i := by
  subst hop
  rw [decodeCommand_of_opcodeRow hrow, if_pos (and_rsvMask_eq_zero hrsv)]

theorem decodeCommand_wordFI {op : Byte} {mk : Byte → Half → Half → Half → Instr}
    (hrow : ∀ w, opcodeRow op w = some (.fi, mk (fieldCh w) (fieldPeriod w) (fieldHigh w) (fieldLow w)))
    (ch : Byte) (period a b : Half) : decodeCommand (wordFI op ch period a b) = .ok (mk ch period a b) := by
  obtain ⟨hop, hch, hperiod, ha, hb⟩ := fields_wordFI op ch period a b
  exact decodeCommand_of_fields (f := .fi) hop (by rw [hrow, hch, hperiod, ha, hb]) BitVec.of_length_zero

theorem decodeCommand_wordFU {op : Byte} {mk : Byte → Byte → Half → Instr}
    (hrow : ∀ w, opcodeRow op w = some (.fu, mk (fieldCh w) (fieldIdx w) (fieldLow w))) (ch idx : Byte) (value : Half) :
    decodeCommand (wordFU op ch idx value) = .ok (mk ch idx value) := by
  obtain ⟨hop, hch, hidx, hvalue, hrsv⟩ := fields_wordFU op ch idx value
  exact decodeCommand_of_fields (f := .fu) hop (by rw [hrow, hch, hidx, hvalue]) hrsv

theorem decodeCommand_wordFC {op : Byte} {mk : Byte → Instr} (hrow : ∀ w, opcodeRow op w = some (.fc, mk (fieldCh w)))
    (ch : Byte) : decodeCommand (wordFC op ch) = .ok (mk ch) := by
  obtain ⟨hop, hch, hrsv⟩ := fields_wordFC op ch
  exact decodeCommand_of_fields (f := .fc) hop (by rw [hrow, hch]) hrsv

theorem decodeCommand_wordFD {op : Byte} {mk : Word → Instr}
    (hrow : ∀ w, opcodeRow op w = some (.fd, mk (fieldDperiod w))) (dperiod : Word) :
    decodeCommand (wordFD op dperiod) = .ok (mk dperiod) := by
  obtain ⟨hop, hdperiod, hrsv⟩ := fields_wordFD op dperiod
  exact decodeCommand_of_fields (f := .fd) hop (by rw [hrow, hdperiod]) hrsv

theorem decodeCommand_wordFM {op : Byte} {mk : Byte → Instr} (hrow : ∀ w, opcodeRow op w = some (.fm, mk (fieldMask w)))
    (mask : Byte) : decodeCommand (wordFM op mask) = .ok (mk mask) := by
  obtain ⟨hop, hmask, hrsv⟩ := fields_wordFM op mask
  exact decodeCommand_of_fields (f := .fm) hop (by rw [hrow, hmask]) hrsv

theorem decodeCommand_wordFLR {op : Byte} {mk : Half → Half → Instr}
    (hrow : ∀ w, opcodeRow op w = some (.flr, mk (fieldHigh w) (fieldLow w))) (l r : Half) :
    decodeCommand (wordFLR op l r) = .ok (mk l r) := by
  obtain ⟨hop, hl, hr, hrsv⟩ := fields_wordFLR op l r
  exact decodeCommand_of_fields (f := .flr) hop (by rw [hrow, hl, hr]) hrsv

theorem decodeCommand_wordFN {op : Byte} {i : Instr} (hrow : ∀ w, opcodeRow op w = some (.fn, i)) :
    decodeCommand (wordFN op) = .ok i := by
  obtain ⟨hop, hrsv⟩ := fields_wordFN op
  exact decodeCommand_of_fields (f := .fn) hop (hrow _) hrsv

/-- The encoding of a command decodes to it, whatever its operands. -/
theorem decodeCommand_encode {i : Instr} {w : DWord} (h : encode i = .command w) : decodeCommand w = .ok i := by
  cases i with
  | nop => cases h; exact decodeCommand_wordFN fun _ => rfl
  | pwmInit ch period a b => cases h; exact decodeCommand_wordFI (fun _ => rfl) ch period a b
  | pwmUpdate ch idx value => cases h; exact decodeCommand_wordFU (fun _ => rfl) ch idx value
  | pwmStop ch => cases h; exact decodeCommand_wordFC (fun _ => rfl) ch
  | dispInit dperiod => cases h; exact decodeCommand_wordFD (fun _ => rfl) dperiod
  | dispStop => cases h; exact decodeCommand_wordFN fun _ => rfl
  | monInit mask => cases h; exact decodeCommand_wordFM (fun _ => rfl) mask
  | latchClear => cases h; exact decodeCommand_wordFN fun _ => rfl
  | motFwd l r => cases h; exact decodeCommand_wordFLR (fun _ => rfl) l r
  | motBwd l r => cases h; exact decodeCommand_wordFLR (fun _ => rfl) l r
  | motLeft l r => cases h; exact decodeCommand_wordFLR (fun _ => rfl) l r
  | motRight l r => cases h; exact decodeCommand_wordFLR (fun _ => rfl) l r
  | motStop => cases h; exact decodeCommand_wordFN fun _ => rfl
  | wrCmdLo v => cases h
  | wrCmdHi v => cases h
  | wrIrqPend v => cases h
  | wrErr v => cases h
  | wrIgnored off v => cases h
  | read off => cases h

/-- An aligned write at an offset without a write row of its own is on the WR_IGNORED row (R287). -/
theorem decodeAccess_wrIgnored {off : Byte} (v : Word) (ha : aligned off = true) (ho : hasOwnWriteRow off = false) :
    decodeAccess (accessWord true off) v = .ok (.wrIgnored off v) := by
  obtain ⟨i, hi⟩ := exists_decodeAccess_of_aligned true v ha
  rcases decodeAccess_write hi with ⟨rfl, _⟩ | ⟨rfl, _⟩ | ⟨rfl, _⟩ | ⟨rfl, _⟩ | ⟨_, _, rfl⟩
  · cases ho
  · cases ho
  · cases ho
  · cases ho
  · exact hi

/-- An aligned read is on the READ row (R284). -/
theorem decodeAccess_aligned_read {off : Byte} (v : Word) (ha : aligned off = true) :
    decodeAccess (accessWord false off) v = .ok (.read off) := by
  obtain ⟨i, hi⟩ := exists_decodeAccess_of_aligned false v ha
  obtain ⟨-, rfl⟩ := decodeAccess_read hi
  exact hi

theorem decodeAccess_encode {i : Instr} {a : BitVec 9} {v : Word} (hwf : i.wellFormed = true) (h : encode i = .access a v) :
    decodeAccess a v = .ok i := by
  cases i with
  | wrCmdLo v => cases h; rfl
  | wrCmdHi v => cases h; rfl
  | wrIrqPend v => cases h; rfl
  | wrErr v => cases h; rfl
  | wrIgnored off v =>
    cases h
    obtain ⟨ha, ho⟩ : aligned off = true ∧ hasOwnWriteRow off = false := by simpa [Instr.wellFormed] using hwf
    exact decodeAccess_wrIgnored v ha ho
  | read off => cases h; exact decodeAccess_aligned_read 0 hwf
  | _ => cases h

/-- Settles O1: a command's word decodes by its format's fields, an access word by its row. -/
theorem decodeOfEncodeIsTheInstruction : Obligations.DecodeOfEncodeIsTheInstruction := by
  intro i hwf
  cases hcode : encode i with
  | command w => rw [decode, decodeCommand_encode hcode]
  | access a v => rw [decode, decodeAccess_encode hwf hcode]

/-! ## A word without a reserved bit is assembled from its fields (R110, R114) -/

/-- The low bits of a word are two fields, the upper one above the lower. -/
theorem put_low_split (a n : Nat) (w : DWord) (h : a + n ≤ 64) :
    put 0 (w.extractLsb' 0 (a + n)) = put a (w.extractLsb' a n) ||| put 0 (w.extractLsb' 0 a) := by
  simpa using put_split 0 a w (by simpa using h)

/-- A word is its opcode above its 56 operand bits. -/
theorem opcode_or_operands (w : DWord) : put 56 (fieldOp w) ||| put 0 (w.extractLsb' 0 56) = w :=
  (put_low_split 56 8 w (by decide)).symm.trans (put_whole w)

theorem wordFI_fields (w : DWord) :
    wordFI (fieldOp w) (fieldCh w) (fieldPeriod w) (fieldHigh w) (fieldLow w) = w := by
  have hw := opcode_or_operands w
  rw [put_low_split 48 8 w (by decide), put_low_split 32 16 w (by decide), put_low_split 16 16 w (by decide)] at hw
  simpa only [wordFI, fieldCh, fieldPeriod, fieldHigh, fieldLow, BitVec.or_assoc] using hw

theorem wordFU_fields {w : DWord} (h : w &&& rsvMask .fu = 0#64) :
    wordFU (fieldOp w) (fieldCh w) (fieldIdx w) (fieldLow w) = w := by
  have hrsv : put 16 (w.extractLsb' 16 24) = 0#64 := (and_rsvMask w .fu).symm.trans h
  have hw := opcode_or_operands w
  rw [put_low_split 48 8 w (by decide), put_low_split 40 8 w (by decide), put_low_split 16 24 w (by decide), hrsv,
    BitVec.zero_or] at hw
  simpa only [wordFU, fieldCh, fieldIdx, fieldLow, BitVec.or_assoc] using hw

theorem wordFC_fields {w : DWord} (h : w &&& rsvMask .fc = 0#64) : wordFC (fieldOp w) (fieldCh w) = w := by
  have hrsv : put 0 (w.extractLsb' 0 48) = 0#64 := (and_rsvMask w .fc).symm.trans h
  have hw := opcode_or_operands w
  rw [put_low_split 48 8 w (by decide), hrsv, BitVec.or_zero] at hw
  simpa only [wordFC, fieldCh] using hw

theorem wordFD_fields {w : DWord} (h : w &&& rsvMask .fd = 0#64) : wordFD (fieldOp w) (fieldDperiod w) = w := by
  have hrsv : put 32 (w.extractLsb' 32 24) = 0#64 := (and_rsvMask w .fd).symm.trans h
  have hw := opcode_or_operands w
  rw [put_low_split 32 24 w (by decide), hrsv, BitVec.zero_or] at hw
  simpa only [wordFD, fieldDperiod] using hw

theorem wordFM_fields {w : DWord} (h : w &&& rsvMask .fm = 0#64) : wordFM (fieldOp w) (fieldMask w) = w := by
  have hrsv : put 8 (w.extractLsb' 8 48) = 0#64 := (and_rsvMask w .fm).symm.trans h
  have hw := opcode_or_operands w
  rw [put_low_split 8 48 w (by decide), hrsv, BitVec.zero_or] at hw
  simpa only [wordFM, fieldMask] using hw

theorem wordFLR_fields {w : DWord} (h : w &&& rsvMask .flr = 0#64) :
    wordFLR (fieldOp w) (fieldHigh w) (fieldLow w) = w := by
  have hrsv : put 32 (w.extractLsb' 32 24) = 0#64 := (and_rsvMask w .flr).symm.trans h
  have hw := opcode_or_operands w
  rw [put_low_split 32 24 w (by decide), hrsv, BitVec.zero_or, put_low_split 16 16 w (by decide)] at hw
  simpa only [wordFLR, fieldHigh, fieldLow, BitVec.or_assoc] using hw

theorem wordFN_fields {w : DWord} (h : w &&& rsvMask .fn = 0#64) : wordFN (fieldOp w) = w := by
  have hrsv : put 0 (w.extractLsb' 0 56) = 0#64 := (and_rsvMask w .fn).symm.trans h
  have hw := opcode_or_operands w
  rw [hrsv, BitVec.or_zero] at hw
  exact hw

/-- The encoder puts the command of a row back on its opcode and its format. -/
theorem encode_of_opcodeRow {w : DWord} {f : Format} {i : Instr} (hrow : opcodeRow (fieldOp w) w = some (f, i))
    (hrsv : w &&& rsvMask f = 0#64) : encode i = .command w := by
  have hop : ∀ op : Byte, (fieldOp w).toNat = op.toNat → fieldOp w = op := fun _ => BitVec.eq_of_toNat_eq
  unfold opcodeRow at hrow
  split at hrow
  case h_1 h => cases hrow; rw [encode, ← hop 0x00 h, wordFN_fields hrsv]
  case h_2 h => cases hrow; rw [encode, ← hop 0x10 h, wordFI_fields w]
  case h_3 h => cases hrow; rw [encode, ← hop 0x11 h, wordFU_fields hrsv]
  case h_4 h => cases hrow; rw [encode, ← hop 0x12 h, wordFC_fields hrsv]
  case h_5 h => cases hrow; rw [encode, ← hop 0x20 h, wordFD_fields hrsv]
  case h_6 h => cases hrow; rw [encode, ← hop 0x21 h, wordFN_fields hrsv]
  case h_7 h => cases hrow; rw [encode, ← hop 0x30 h, wordFM_fields hrsv]
  case h_8 h => cases hrow; rw [encode, ← hop 0x31 h, wordFN_fields hrsv]
  case h_9 h => cases hrow; rw [encode, ← hop 0x40 h, wordFLR_fields hrsv]
  case h_10 h => cases hrow; rw [encode, ← hop 0x41 h, wordFLR_fields hrsv]
  case h_11 h => cases hrow; rw [encode, ← hop 0x42 h, wordFLR_fields hrsv]
  case h_12 h => cases hrow; rw [encode, ← hop 0x43 h, wordFLR_fields hrsv]
  case h_13 h => cases hrow; rw [encode, ← hop 0x44 h, wordFN_fields hrsv]
  case h_14 => cases hrow

/-- Settles O2: a word that decodes has no reserved bit, so its fields are all of it. -/
theorem decodedCommandWordIsItsEncoding : Obligations.DecodedCommandWordIsItsEncoding := by
  intro w i h
  obtain ⟨f, hrow, hrsv⟩ := exists_opcodeRow_of_decodeCommand h
  exact encode_of_opcodeRow hrow hrsv

/-- Settles O3: the lookup in the table of masks is the row of the word's opcode. -/
theorem commandDecoderIsTotal : Obligations.CommandDecoderIsTotal := by
  intro w
  rw [← fieldOp_toNat, opcodeMasks_lookup (fieldOp w) w]
  cases hrow : opcodeRow (fieldOp w) w with
  | none => exact ⟨fun _ => by rw [decodeCommand, hrow], nofun⟩
  | some row =>
    obtain ⟨f, i⟩ := row
    refine ⟨nofun, ?_⟩
    rintro mask ⟨⟩
    rw [decodeCommand_of_opcodeRow hrow]
    exact ⟨fun hbit => if_neg hbit, fun hrsv => ⟨i, if_pos hrsv, encode_of_opcodeRow hrow hrsv⟩⟩

/-- Settles O4: each row is one word, which the decoder evaluates. -/
theorem workedEncodingsDecode : Obligations.WorkedEncodingsDecode := by
  unfold Obligations.WorkedEncodingsDecode
  decide

/-! ## Placed events (R121, log 1)

Running an event neither reads nor writes the events placed after it, so replacing them commutes with the run. -/

/-- The outcome with the placed events of its next state replaced. -/
def withInputs (l : List Event) (r : Result) : Result :=
  match r with
  | .next s => .next { s with inputs := l }
  | .fault f => .fault f
  | .refused r => .refused r

theorem chan_withInputs (s : State) (l : List Event) (c : Chan) : ({ s with inputs := l } : State).chan c = s.chan c := by
  cases c <;> rfl

theorem setChan_withInputs (s : State) (l : List Event) (c : Chan) (p : PwmChannel) :
    ({ s with inputs := l } : State).setChan c p = { s.setChan c p with inputs := l } := by
  cases c <;> rfl

theorem reject_withInputs (s : State) (l : List Event) (r : Reject) :
    ({ s with inputs := l } : State).reject r = { s.reject r with inputs := l } := by
  unfold State.reject
  split <;> rfl

theorem exec_command_withInputs {i : Instr} (hc : isCommand i = true) (s : State) (l : List Event) :
    exec i { s with inputs := l } = withInputs l (exec i s) := by
  cases i with
  | pwmInit ch period a b =>
    simp only [exec, execPwmInit, reject_withInputs, setChan_withInputs]
    split
    · rfl
    · split <;> rfl
  | pwmUpdate ch idx value =>
    simp only [exec, execPwmUpdate, reject_withInputs, setChan_withInputs, chan_withInputs]
    split
    · rfl
    · split <;> rfl
  | pwmStop ch =>
    simp only [exec, execPwmStop, reject_withInputs, setChan_withInputs, chan_withInputs]
    split <;> rfl
  | dispInit dperiod =>
    simp only [exec, execDispInit, reject_withInputs]
    split <;> rfl
  | wrCmdLo v => cases hc
  | wrCmdHi v => cases hc
  | wrIrqPend v => cases hc
  | wrErr v => cases hc
  | wrIgnored off v => cases hc
  | read off => cases hc
  | _ => rfl

theorem execWrCmdHi_withInputs (v : Word) (s : State) (l : List Event) :
    execWrCmdHi v { s with inputs := l } = withInputs l (execWrCmdHi v s) := by
  cases hd : decodeCommand (v ++ s.cmdLo) with
  | error r =>
    rw [execWrCmdHi_error hd, execWrCmdHi_error (s := { s with inputs := l }) hd]
    exact congrArg _ (reject_withInputs { s with cmdHi := v } l r)
  | ok i =>
    rw [execWrCmdHi_ok hd, execWrCmdHi_ok (s := { s with inputs := l }) hd]
    exact exec_command_withInputs (isCommand_of_decodeCommand hd) { s with cmdHi := v } l

theorem exec_withInputs (i : Instr) (s : State) (l : List Event) :
    exec i { s with inputs := l } = withInputs l (exec i s) := by
  cases i with
  | wrCmdLo v => rfl
  | wrCmdHi v => exact execWrCmdHi_withInputs v s l
  | wrIrqPend v => rfl
  | wrErr v =>
    simp only [exec, execWrErr]
    split <;> rfl
  | wrIgnored off v =>
    simp only [exec, execWrIgnored]
    split
    · rfl
    · split <;> rfl
  | read off =>
    simp only [exec, execRead]
    split <;> rfl
  | _ => exact exec_command_withInputs rfl s l

theorem runAccess_withInputs (write : Bool) (bytes off : Nat) (v : Word) (s : State) (l : List Event) :
    runAccess write bytes off v { s with inputs := l } = withInputs l (runAccess write bytes off v s) := by
  unfold runAccess
  split
  · rfl
  · split
    · rfl
    · split
      · exact exec_withInputs _ s l
      · rfl

theorem runEvent_withInputs (e : Event) (s : State) (l : List Event) :
    runEvent e { s with inputs := l } = withInputs l (runEvent e s) := by
  cases e with
  | hostRead bytes off => exact runAccess_withInputs false bytes off 0 s l
  | hostWrite bytes off v => exact runAccess_withInputs true bytes off v s l
  | pwmTick c => simp only [runEvent, onPwmTick, setChan_withInputs, chan_withInputs, withInputs]
  | dispTick =>
    simp only [runEvent, onDispTick]
    split
    · rfl
    · split <;> rfl
  | sample lv =>
    simp only [runEvent, onSample]
    split <;> rfl
  | reset => rfl

/-- Settles O9, by induction on the placed events: the first one runs alike with the later ones placed and without them. -/
theorem placedEventsRunInOrder : Obligations.PlacedEventsRunInOrder := by
  intro s es rest
  induction es generalizing s with
  | nil => rfl
  | cons e es ih =>
    have hstep : Sys2Proof.core.step { s with inputs := e :: es ++ rest } = withInputs (es ++ rest) (runEvent e s) :=
      (step_of_inputs rfl).trans (runEvent_withInputs e s (es ++ rest))
    simp only [List.length_cons, Host.Core.run, runEvents, hstep, runEvent_withInputs]
    cases runEvent e s with
    | next t => exact ih t
    | fault f => rfl
    | refused r => rfl

/-! ## The two host writes of a command (R110, R120) -/

/-- A command word is its high half above its low half. -/
theorem high_append_low (cmd : DWord) : (cmd >>> 32).setWidth 32 ++ cmd.setWidth 32 = cmd := by
  rw [BitVec.setWidth_ushiftRight_eq_extractLsb, BitVec.setWidth_eq_extractLsb' (by decide)]
  exact (BitVec.extractLsb'_append_extractLsb'_eq_extractLsb' rfl).trans BitVec.extractLsb'_eq_self

theorem runEvents_cons_of_next {e : Event} {s t : State} (es : List Event) (h : runEvent e s = .next t) :
    runEvents (e :: es) s = runEvents es t := by
  rw [runEvents, h]

theorem runEvents_singleton (e : Event) (s : State) : runEvents [e] s = runEvent e s := by
  simp only [runEvents]
  cases runEvent e s <;> rfl

/-- Settles O10: the first write stages the low half, and the second completes the command's word and commits it (R281). -/
theorem commandPairRunsTheCommand : Obligations.CommandPairRunsTheCommand := by
  intro s i cmd hi
  have hlo : runEvent (.hostWrite 4 0x00 (cmd.setWidth 32)) s = .next { s with cmdLo := cmd.setWidth 32 } :=
    runAccess_of_decodeAccess (write := true) (off := 0x00) (i := .wrCmdLo _) rfl s
  rw [runEvents_cons_of_next _ hlo, runEvents_singleton]
  calc runEvent (.hostWrite 4 0x04 ((cmd >>> 32).setWidth 32)) { s with cmdLo := cmd.setWidth 32 }
    _ = execWrCmdHi ((cmd >>> 32).setWidth 32) { s with cmdLo := cmd.setWidth 32 } :=
      runAccess_of_decodeAccess (write := true) (off := 0x04) (i := .wrCmdHi _) rfl _
    _ = exec i { s with cmdLo := cmd.setWidth 32, cmdHi := (cmd >>> 32).setWidth 32 } :=
      execWrCmdHi_ok (by rw [high_append_low]; exact decodeCommand_encode hi)

end Sys2Proof.Machine
end

section
/-! The family 40_pwm.md: what the tick and the three commands leave in their channel (R153, R156 to R158, R160), the level of
an output (R154, R155), and the latency of a written duty (R162). A step is read through `ChannelStep`; the laws about a run
are inductions over its events. -/

namespace Sys2Proof.Machine

/-! ## Writing one channel -/

theorem onlyChannelDiffers_setChan (s : State) (c : Chan) (p : PwmChannel) : OnlyChannelDiffers c s (s.setChan c p) :=
  ⟨setChan_eq s c p, chan_setChan_other s c p⟩

theorem setChan_chan (s : State) (c : Chan) : s.setChan c (s.chan c) = s := by
  cases c <;> rfl

theorem setChan_setChan (s : State) (c : Chan) (p q : PwmChannel) : (s.setChan c p).setChan c q = s.setChan c q := by
  cases c <;> rfl

theorem exec_pwmInit {p : Half} (hp : p ≠ 0#16) (c : Chan) (a b : Half) (s : State) :
    exec (.pwmInit (chanField c) p a b) s = .next (s.setChan c (PwmChannel.init p a b)) := by
  simp [exec, execPwmInit, hp]

theorem exec_pwmInit_zero (c : Chan) (a b : Half) (s : State) :
    exec (.pwmInit (chanField c) 0#16 a b) s = .next (s.reject .zeroPeriod) := by
  simp [exec, execPwmInit]

theorem exec_pwmUpdate (c : Chan) (o : Out) (v : Half) (s : State) :
    exec (.pwmUpdate (chanField c) (outField o) v) s = .next (s.setChan c ((s.chan c).writeShadow o v)) := by
  simp [exec, execPwmUpdate]

theorem exec_pwmStop (c : Chan) (s : State) :
    exec (.pwmStop (chanField c)) s = .next (s.setChan c (s.chan c).stop) := by
  simp [exec, execPwmStop]

theorem chan_reject (s : State) (r : Reject) (c : Chan) : (s.reject r).chan c = s.chan c :=
  chan_congr (reject_pwm0 s r) (reject_pwm1 s r) c

/-! ## The level of an output (R154) -/

theorem pwmOut_iff (s : State) (c : Chan) (o : Out) :
    pwmOut s c o = true ↔ (s.chan c).run = true ∧ (s.chan c).cnt.toNat < ((s.chan c).active.get o).toNat := by
  simp [pwmOut, PwmChannel.out, BitVec.lt_def]

theorem pwmOut_of_stopped {s : State} {c : Chan} (h : (s.chan c).run = false) (o : Out) : pwmOut s c o = false := by
  simp [pwmOut, PwmChannel.out, h]

/-- Settles O14: the level compares the counter, which stays below the period (I2), with the active duty. -/
theorem outputLevelFollowsCounter : Obligations.OutputLevelFollowsCounter := by
  intro s c o ⟨_, hrun, _⟩
  refine ⟨pwmOut_iff s c o, fun hr => pwmOut_of_stopped hr o, fun h0 => ?_, fun hr hp => ?_⟩
  · rw [← Bool.not_eq_true, pwmOut_iff, h0]
    exact fun ⟨_, hlt⟩ => Nat.not_lt_zero _ hlt
  · rw [pwmOut_iff, hp]
    exact ⟨hr, (hrun hr).2⟩

/-! ## The tick and the commands -/

/-- Settles O13: the three clauses of the tick, and its frame. -/
theorem pwmTickCountsAndReloads : Obligations.PwmTickCountsAndReloads := by
  intro s es c hin ⟨_, hinv, _⟩
  refine ⟨onPwmTick c { s with inputs := es }, step_of_inputs hin, onlyChannelDiffers_setChan _ c _, ?_⟩
  rw [onPwmTick, chan_setChan_same, chan_withInputs s es c]
  refine ⟨tick_stopped, fun hr hb => ?_, fun hr hb => ?_⟩
  · have hpos := (hinv hr).1
    exact tick_boundary hr (by omega)
  · have hlt := BitVec.lt_def.1 (hinv hr).2
    obtain ⟨htick, hcnt⟩ := tick_inside hr (by omega)
    rw [htick]
    exact ⟨hcnt, rfl⟩

/-- Settles O15: `PwmChannel.init` reads nothing of the channel's state before. -/
theorem pwmInitLeavesTheChannelExactly : Obligations.PwmInitLeavesTheChannelExactly := by
  intro s c p a b hp
  refine ⟨_, exec_pwmInit hp c a b s, onlyChannelDiffers_setChan s c _, ?_⟩
  rw [chan_setChan_same]
  exact ⟨rfl, rfl, rfl, clamp_toNat a p, clamp_toNat b p, rfl⟩

/-- Settles O16: the clamped value goes to the one output's shadow. -/
theorem pwmUpdateWritesOneShadow : Obligations.PwmUpdateWritesOneShadow := by
  intro s c o v
  refine ⟨_, exec_pwmUpdate c o v s, onlyChannelDiffers_setChan s c _, ?_⟩
  rw [chan_setChan_same, writeShadow_shadow, dutyPair_get_set_same, dutyPair_get_set_other]
  exact ⟨clamp_toNat v _, rfl, rfl⟩

/-- Settles O17: the stopped channel keeps its period and duties, and drives low. -/
theorem pwmStopHaltsTheChannel : Obligations.PwmStopHaltsTheChannel := by
  intro s c
  exact ⟨_, exec_pwmStop c s, onlyChannelDiffers_setChan s c _, chan_setChan_same s c _,
    pwmOut_of_stopped (by rw [chan_setChan_same, stop_run])⟩

/-- Settles O23: a tick and a command of a channel write that channel alone, from its own register file. -/
theorem channelsAreIndependent : Obligations.ChannelsAreIndependent := by
  intro s s' c o p a b hc
  have hset : ∀ q q' : PwmChannel, q = q' → (s.setChan c q).chan c = (s'.setChan c q').chan c
      ∧ (s.setChan c q).chan (otherChan c) = s.chan (otherChan c) := fun q q' hq =>
    ⟨by rw [chan_setChan_same, chan_setChan_same, hq], chan_setChan_other s c q⟩
  constructor
  · rintro _ rfl t t' ht ht'
    cases ht
    cases ht'
    exact hset _ _ (by rw [hc])
  · rintro i (rfl | rfl | rfl)
    · by_cases hp : p = 0#16
      · subst hp
        exact ⟨_, _, exec_pwmInit_zero c a b s, exec_pwmInit_zero c a b s', by rw [chan_reject, chan_reject, hc],
          chan_reject s _ _⟩
      · exact ⟨_, _, exec_pwmInit hp c a b s, exec_pwmInit hp c a b s', hset _ _ rfl⟩
    · exact ⟨_, _, exec_pwmUpdate c o a s, exec_pwmUpdate c o a s', hset _ _ (by rw [hc])⟩
    · exact ⟨_, _, exec_pwmStop c s, exec_pwmStop c s', hset _ _ (by rw [hc])⟩

/-! ## A stopped channel (R159) -/

/-- A step leaves a stopped channel stopped but for its init, and its active duties but for the init and the reset. -/
theorem channelStep_of_stopped {s : State} {c : Chan} {q : PwmChannel} (hr : (s.chan c).run = false)
    (h : ChannelStep s c q) :
    (∃ p a b, Commits s (.pwmInit (chanField c) p a b))
      ∨ q.run = false ∧ (s.nextEvent = .reset ∨ q.active = (s.chan c).active) := by
  have keep (hrun : q.run = (s.chan c).run) (hact : q.active = (s.chan c).active) :
      (∃ p a b, Commits s (.pwmInit (chanField c) p a b))
        ∨ q.run = false ∧ (s.nextEvent = .reset ∨ q.active = (s.chan c).active) :=
    .inr ⟨hrun.trans hr, .inr hact⟩
  cases h with
  | init p a b hp hc hq => exact .inl ⟨p, a, b, hc⟩
  | reset he hq => exact .inr ⟨by rw [hq]; rfl, .inl he⟩
  | kept hq => exact keep (by rw [hq]) (by rw [hq])
  | tick he hq => rw [tick_stopped hr] at hq; exact keep (by rw [hq]) (by rw [hq])
  | stop hc hq => exact .inr ⟨by rw [hq, stop_run], .inr (by rw [hq, stop_active])⟩
  | update o v hc hq => exact keep (by rw [hq, writeShadow_run]) (by rw [hq, writeShadow_active])
  | motDrive i l r h0 hi hc hq => exact keep (by simp [hq]) (by simp [hq])
  | motStop h0 hc hq => exact keep (by simp [hq]) (by simp [hq])

/-- Settles O22: by what a step leaves of a stopped channel, which drives low. -/
theorem stoppedChannelStaysSilent : Obligations.StoppedChannelStaysSilent := by
  intro s t c hr h
  rcases channelStep_of_stopped hr (channelStep_of_step h c) with hinit | ⟨hrun, hreset | hact⟩
  · exact ⟨.inr (.inl hinit), .inl hinit⟩
  · exact ⟨.inl hreset, .inr ⟨hrun, pwmOut_of_stopped hrun⟩⟩
  · exact ⟨.inr (.inr hact), .inr ⟨hrun, pwmOut_of_stopped hrun⟩⟩

/-! ## Ticks of one channel alone (R155) -/

/-- `k` ticks of a channel and nothing else tick that channel `k` times. -/
theorem runEvents_replicate_pwmTick (c : Chan) (k : Nat) (s : State) :
    runEvents (List.replicate k (.pwmTick c)) s = .next (s.setChan c (PwmChannel.tick^[k] (s.chan c))) := by
  induction k generalizing s with
  | zero => rw [Function.iterate_zero_apply, setChan_chan]; rfl
  | succ k ih =>
    rw [List.replicate_succ, runEvents_cons_of_next _ rfl, ih, onPwmTick, chan_setChan_same, setChan_setChan,
      Function.iterate_succ_apply]

/-- As long as the period boundary is not reached, `k` ticks move the counter alone, by `k`. -/
theorem iterate_tick_inside {p : PwmChannel} (hr : p.run = true) {k : Nat} (h : p.cnt.toNat + k < p.period.toNat) :
    (PwmChannel.tick^[k] p).cnt.toNat = p.cnt.toNat + k
      ∧ PwmChannel.tick^[k] p = { p with cnt := (PwmChannel.tick^[k] p).cnt } := by
  induction k with
  | zero => exact ⟨rfl, rfl⟩
  | succ k ih =>
    obtain ⟨hcnt, heq⟩ := ih (by omega)
    have hrun : (PwmChannel.tick^[k] p).run = true := by rw [heq]; exact hr
    have hper : (PwmChannel.tick^[k] p).period = p.period := by rw [heq]
    obtain ⟨htick, hsucc⟩ := tick_inside hrun (by rw [hper]; omega)
    rw [Function.iterate_succ_apply', htick]
    exact ⟨by rw [hsucc, hcnt]; rfl, by rw [heq]⟩

/-- A predicate that holds below `d` alone counts `d` of the first `n` numbers. -/
theorem countP_range_of_lt_iff {f : Nat → Bool} {d n : Nat} (hd : d ≤ n) (hf : ∀ k < n, (f k = true ↔ k < d)) :
    (List.range n).countP f = d := by
  obtain ⟨m, rfl⟩ := Nat.exists_eq_add_of_le hd
  have hlow : (List.range d).countP f = d := by
    rw [List.countP_eq_length.2 fun k hk => ?_, List.length_range]
    have := List.mem_range.1 hk
    exact (hf k (by omega)).2 this
  have hhigh : ((List.range m).map (d + ·)).countP f = 0 := by
    refine List.countP_eq_zero.2 fun k hk => ?_
    obtain ⟨j, hj, rfl⟩ := List.mem_map.1 hk
    have := List.mem_range.1 hj
    exact fun h => absurd ((hf _ (by omega)).1 h) (by omega)
  rw [List.range_add, List.countP_append, hlow, hhigh, Nat.add_zero]

theorem active_le_period {p : PwmChannel} (h : ChanInv p) (o : Out) : (p.active.get o).toNat ≤ p.period.toNat := by
  obtain ⟨⟨_, _, ha, hb⟩, _⟩ := h
  cases o
  · exact ha
  · exact hb

/-- Settles O19: the counter goes through `0 .. P-1`, and the output is high in the first `D` of these states. -/
theorem highFractionIsDutyOverPeriod : Obligations.HighFractionIsDutyOverPeriod := by
  intro s c o hinv hr h0
  have hlevel : ∀ k < (s.chan c).period.toNat, ∃ t, runEvents (List.replicate k (.pwmTick c)) s = .next t
      ∧ (t.chan c).cnt.toNat = k ∧ (pwmOut t c o = true ↔ k < ((s.chan c).active.get o).toNat) := by
    intro k hk
    have hcnt0 : (s.chan c).cnt.toNat = 0 := by rw [h0]; rfl
    obtain ⟨hcnt, heq⟩ := iterate_tick_inside hr (by rw [hcnt0, Nat.zero_add]; exact hk)
    rw [hcnt0, Nat.zero_add] at hcnt
    refine ⟨_, runEvents_replicate_pwmTick c k s, ?_⟩
    rw [pwmOut_iff, chan_setChan_same, hcnt, heq]
    exact ⟨rfl, and_iff_right hr⟩
  refine ⟨hlevel, countP_range_of_lt_iff (active_le_period hinv o) fun k hk => ?_⟩
  obtain ⟨t, ht, _, hout⟩ := hlevel k hk
  rw [outAfter, ht]
  exact hout

/-! ## The latency of a written duty (R162) -/

/-- The ticks that a running channel needs to its next period boundary. -/
def ticksToBoundary (p : PwmChannel) : Nat := p.period.toNat - p.cnt.toNat

/-- The active duty of output `o` after `n` ticks, with no write of its shadow and `n` at most `ticksToBoundary p`. -/
def activeAfter (p : PwmChannel) (o : Out) (n : Nat) : Half :=
  if n < ticksToBoundary p then p.active.get o else p.shadow.get o

/-- The latency is at least one tick and at most a period. -/
theorem ticksToBoundary_bounds {p : PwmChannel} (hi : ChanInv p) (hr : p.run = true) :
    1 ≤ ticksToBoundary p ∧ ticksToBoundary p ≤ p.period.toNat := by
  have hlt := BitVec.lt_def.1 (hi.2.1 hr).2
  unfold ticksToBoundary
  omega

/-- A tick uses up one of the ticks of the latency. -/
theorem activeAfter_tick {p : PwmChannel} (hi : ChanInv p) (hr : p.run = true) (o : Out) {n : Nat}
    (hn : n + 1 ≤ ticksToBoundary p) :
    n ≤ ticksToBoundary p.tick ∧ activeAfter p.tick o n = activeAfter p o (n + 1) := by
  obtain ⟨_, hrun, _⟩ := hi
  obtain ⟨hpos, hlt⟩ := hrun hr
  rw [BitVec.lt_def] at hlt
  unfold ticksToBoundary at hn
  unfold activeAfter ticksToBoundary
  by_cases hb : p.cnt.toNat + 1 = p.period.toNat
  · obtain rfl : n = 0 := by omega
    rw [tick_boundary hr hb, if_pos (by simpa using Nat.lt_of_succ_le hpos), if_neg (by omega)]
    exact ⟨Nat.zero_le _, rfl⟩
  · obtain ⟨htick, hcnt⟩ := tick_inside hr (by omega)
    simp only [htick, hcnt]
    exact ⟨by omega, if_congr (by omega) rfl rfl⟩

/-- `q` is `p` but for the shadow of the other output. -/
structure SameForOutput (o : Out) (p q : PwmChannel) : Prop where
  eq : q = { p with shadow := q.shadow }
  shadow : q.shadow.get o = p.shadow.get o

theorem sameForOutput_refl (o : Out) (p : PwmChannel) : SameForOutput o p p := ⟨rfl, rfl⟩

theorem sameForOutput_writeShadow {o o' : Out} (h : o' ≠ o) (p : PwmChannel) (v : Half) :
    SameForOutput o p (p.writeShadow o' v) := by
  refine ⟨rfl, ?_⟩
  match o, o' with
  | .a, .b | .b, .a => rfl
  | .a, .a | .b, .b => exact absurd rfl h

theorem ticksToBoundary_of_same {o : Out} {p q : PwmChannel} (h : SameForOutput o p q) :
    ticksToBoundary q = ticksToBoundary p := by
  rw [h.eq]; rfl

theorem activeAfter_of_same {o : Out} {p q : PwmChannel} (h : SameForOutput o p q) (n : Nat) :
    activeAfter q o n = activeAfter p o n := by
  have hact : q.active = p.active := by rw [h.eq]
  rw [activeAfter, activeAfter, ticksToBoundary_of_same h, h.shadow, hact]

/-- An event that is no tick of the channel, no reset and no commit that ends the latency leaves the channel as it is but for
the other output's shadow. -/
theorem sameForOutput_of_channelStep {s : State} {c : Chan} {o : Out} {q : PwmChannel} (htick : s.nextEvent ≠ .pwmTick c)
    (hreset : s.nextEvent ≠ .reset) (hquiet : ∀ i, EndsLatency c o i → ¬ Commits s i) (h : ChannelStep s c q) :
    SameForOutput o (s.chan c) q := by
  cases h with
  | kept hq => rw [hq]; exact sameForOutput_refl o _
  | tick he hq => exact absurd he htick
  | reset he hq => exact absurd he hreset
  | init p a b hp hc hq => exact absurd hc (hquiet _ (.inl ⟨p, a, b, hp, rfl⟩))
  | update o' v hc hq =>
    rw [hq]
    refine sameForOutput_writeShadow (fun ho => ?_) _ v
    subst ho
    exact hquiet _ (.inr (.inr (.inl ⟨v, rfl⟩))) hc
  | stop hc hq => exact absurd hc (hquiet _ (.inr (.inl rfl)))
  | motDrive i l r h0 hi hc hq => exact absurd hc (hquiet _ (.inr (.inr (.inr ⟨h0, .inr ⟨l, r, hi⟩⟩))))
  | motStop h0 hc hq => exact absurd hc (hquiet _ (.inr (.inr (.inr ⟨h0, .inl rfl⟩))))

/-- Running an event is the step that takes it from the stream, so it leaves what a step leaves in a channel. -/
theorem channelStep_of_runEvent {e : Event} {s t : State} (h : runEvent e s = .next t) (c : Chan) :
    ChannelStep (s.placeEvent e) c (t.chan c) :=
  channelStep_of_step (show step (s.placeEvent e) = .next t from h) c

/-- The latency law over a quiet run, by induction on its events: a tick of the channel uses up one tick of the latency, and
every other event leaves what the law reads. -/
theorem runEvents_activeAfter {c : Chan} {o : Out} {es : List Event} {s : State} (hi : ChanInv (s.chan c))
    (hr : (s.chan c).run = true) (hq : QuietRun c o es s) (hn : es.count (.pwmTick c) ≤ ticksToBoundary (s.chan c)) :
    ∃ t, runEvents es s = .next t ∧ (t.chan c).active.get o = activeAfter (s.chan c) o (es.count (.pwmTick c)) := by
  induction es generalizing s with
  | nil => exact ⟨s, rfl, (if_pos (ticksToBoundary_bounds hi hr).1).symm⟩
  | cons e es ih =>
    obtain ⟨⟨hadm, hreset, hquiet⟩, hrest⟩ := hq
    obtain ⟨t, ht⟩ := runEvent_completes hadm s
    have hi' : ChanInv (t.chan c) := chanInv_of_channelStep (s := s.placeEvent e) hi (channelStep_of_runEvent ht c)
    rw [runEvents_cons_of_next es ht]
    by_cases he : e = .pwmTick c
    · subst he
      have hchan : t.chan c = (s.chan c).tick := by cases ht; exact chan_setChan_same s c _
      rw [List.count_cons_self] at hn ⊢
      obtain ⟨hn', hact⟩ := activeAfter_tick hi hr o hn
      rw [← hchan] at hn' hact
      rw [← hact]
      exact ih hi' (by rw [hchan, tick_run, hr]) (hrest t ht) hn'
    · have hsame : SameForOutput o (s.chan c) (t.chan c) :=
        sameForOutput_of_channelStep (s := s.placeEvent e) he hreset hquiet (channelStep_of_runEvent ht c)
      rw [List.count_cons_of_ne he] at hn ⊢
      rw [← activeAfter_of_same hsame]
      exact ih hi' (by rw [hsame.eq]; exact hr) (hrest t ht) (by rw [ticksToBoundary_of_same hsame]; exact hn)

/-- Settles O55: the bounds by I2, and the law by `runEvents_activeAfter`. -/
theorem dutyLatencyAmongOtherEvents : Obligations.DutyLatencyAmongOtherEvents := by
  intro s c o es hi hr hq
  exact ⟨ticksToBoundary_bounds hi hr, runEvents_activeAfter hi hr hq⟩

/-- Ticks alone commit no command. -/
theorem quietRun_replicate_pwmTick (c : Chan) (o : Out) (n : Nat) (s : State) :
    QuietRun c o (List.replicate n (.pwmTick c)) s := by
  induction n generalizing s with
  | zero => trivial
  | succ n ih => exact ⟨⟨rfl, nofun, fun _ _ ⟨_, hnext, _⟩ => nomatch hnext⟩, fun t _ => ih t⟩

/-- Settles O20: the latency law for a run of ticks alone. -/
theorem shadowBecomesActiveAtTheBoundary : Obligations.ShadowBecomesActiveAtTheBoundary := by
  intro s c o hi hr
  refine ⟨ticksToBoundary_bounds hi hr, fun n hn => ?_⟩
  have h := runEvents_activeAfter hi hr (quietRun_replicate_pwmTick c o n s)
  rw [List.count_replicate_self] at h
  exact h hn

end Sys2Proof.Machine
end

section
/-! The family 41_dispatcher.md: what the tick and the two commands leave in the dispatcher (R192 to R194), and the rate law of
its wraps (R195). The rate law is an invariant of the run, `AfterTicks`: the count is the number of ticks modulo the period. -/

namespace Sys2Proof.Machine

/-! ## The commands (R192, R194) -/

theorem exec_dispInit {d : Word} (hd : d ≠ 0#32) (s : State) :
    exec (.dispInit d) s
      = .next { s with dperiod := d, dcnt := 0#32, drun := true, tickPend := false, tickOvr := false } := by
  rw [exec, execDispInit, if_neg hd]

theorem exec_dispInit_zero (s : State) : exec (.dispInit 0#32) s = .next (s.reject .zeroDperiod) := by
  rw [exec, execDispInit, if_pos rfl]

/-- Settles O24: the two branches of `disp.init`, and what its reject writes. -/
theorem dispInitRestartsTheDispatcher : Obligations.DispInitRestartsTheDispatcher := by
  intro s d
  exact ⟨fun hd => exec_dispInit hd s, (exec_dispInit_zero s).trans (congrArg _ (reject_eq s .zeroDperiod))⟩

/-- Settles O25: `disp.stop` has this one outcome. -/
theorem dispStopWithdrawsThePendingTick : Obligations.DispStopWithdrawsThePendingTick := by
  intro s
  rfl

/-! ## The tick (R193) -/

theorem onDispTick_stopped {s : State} (hr : s.drun = false) : onDispTick s = s := by
  rw [onDispTick, if_pos hr]

/-- At the end of the period the count returns to 0 and a tick pends. -/
theorem onDispTick_wrap {s : State} (hr : s.drun = true) (h : s.dcnt.toNat + 1 = s.dperiod.toNat) :
    onDispTick s = { s with dcnt := 0#32, tickOvr := s.tickOvr || s.tickPend, tickPend := true } := by
  have hc : s.dcnt = s.dperiod - 1#32 := BitVec.eq_of_toNat_eq (by rw [toNat_pred (by omega)]; omega)
  rw [onDispTick, if_neg (by simp [hr]), if_pos hc]

/-- Inside the period only the count moves, without overflow. -/
theorem onDispTick_count {s : State} (hr : s.drun = true) (h : s.dcnt.toNat + 1 < s.dperiod.toNat) :
    onDispTick s = { s with dcnt := s.dcnt + 1#32 } ∧ (s.dcnt + 1#32).toNat = s.dcnt.toNat + 1 := by
  have hb := s.dperiod.isLt
  have hc : s.dcnt ≠ s.dperiod - 1#32 := fun hc => by
    have := congrArg BitVec.toNat hc
    rw [toNat_pred (by omega)] at this; omega
  exact ⟨by rw [onDispTick, if_neg (by simp [hr]), if_neg hc], toNat_succ (by omega)⟩

/-- Settles O26: I4 says that the count is below the period, so it is at the wrap or counts on. -/
theorem dispTickWrapsAndPends : Obligations.DispTickWrapsAndPends := by
  intro s es hin ⟨hinv, _⟩
  have hstep : step s = .next (onDispTick { s with inputs := es }) := step_of_inputs hin
  rw [hstep]
  refine ⟨fun hr => ?_, fun hr hw => ?_, fun hr hw => ?_⟩
  · exact congrArg _ (onDispTick_stopped hr)
  · have hpos := (hinv hr).1
    have hend : s.dcnt.toNat + 1 = s.dperiod.toNat := by omega
    have hovr : (s.tickOvr || s.tickPend) = if s.tickPend then true else s.tickOvr := by cases s.tickPend <;> simp
    rw [onDispTick_wrap (s := { s with inputs := es }) hr hend, hovr]
  · have hlt := BitVec.lt_def.1 (hinv hr).2
    have hinside : s.dcnt.toNat + 1 < s.dperiod.toNat := by omega
    obtain ⟨htick, hcnt⟩ := onDispTick_count (s := { s with inputs := es }) hr hinside
    rw [htick]
    exact ⟨_, rfl, hcnt, rfl⟩

/-! ## The rate law (R195) -/

/-- The dispatcher runs with period `d` and has counted `n` ticks since its init. -/
structure AfterTicks (d : Word) (n : Nat) (s : State) : Prop where
  drun : s.drun = true
  dperiod : s.dperiod = d
  dcnt : s.dcnt.toNat = n % d.toNat

/-- The tick `n + 1` after the init: a wrap when `d` divides `n + 1`, else a count to `(n + 1) % d`. -/
theorem onDispTick_of_afterTicks {d : Word} {n : Nat} {s : State} (hd : d ≠ 0#32) (h : AfterTicks d n s) :
    ((n + 1) % d.toNat = 0
        ∧ onDispTick s = { s with dcnt := 0#32, tickOvr := s.tickOvr || s.tickPend, tickPend := true })
      ∨ ((n + 1) % d.toNat ≠ 0 ∧ onDispTick s = { s with dcnt := s.dcnt + 1#32 }
        ∧ (s.dcnt + 1#32).toNat = (n + 1) % d.toNat) := by
  obtain ⟨hr, rfl, hcnt⟩ := h
  have hlt : s.dcnt.toNat < s.dperiod.toNat := hcnt ▸ Nat.mod_lt n (one_le_toNat_of_ne_zero hd)
  have hmod : (n + 1) % s.dperiod.toNat = (s.dcnt.toNat + 1) % s.dperiod.toNat := by rw [hcnt, Nat.mod_add_mod]
  by_cases hw : s.dcnt.toNat + 1 = s.dperiod.toNat
  · exact .inl ⟨by rw [hmod, hw, Nat.mod_self], onDispTick_wrap hr hw⟩
  · rw [Nat.mod_eq_of_lt (show s.dcnt.toNat + 1 < s.dperiod.toNat by omega)] at hmod
    obtain ⟨htick, hsucc⟩ := onDispTick_count hr (by omega)
    exact .inr ⟨by omega, htick, hsucc.trans hmod.symm⟩

/-- A tick is counted. -/
theorem afterTicks_onDispTick {d : Word} {n : Nat} {s : State} (hd : d ≠ 0#32) (h : AfterTicks d n s) :
    AfterTicks d (n + 1) (onDispTick s) := by
  rcases onDispTick_of_afterTicks hd h with ⟨hmod, htick⟩ | ⟨_, htick, hcnt⟩
  · rw [htick]
    exact ⟨h.drun, h.dperiod, hmod.symm⟩
  · rw [htick]
    exact ⟨h.drun, h.dperiod, hcnt⟩

/-- An acknowledge completes and leaves the count alone (R285). -/
theorem afterTicks_ack {d : Word} {n : Nat} {s : State} (m : Word) (h : AfterTicks d n s) :
    ∃ t, runEvent (.hostWrite 4 0x0C m) s = .next t ∧ AfterTicks d n t :=
  ⟨_, runAccess_of_decodeAccess (write := true) (off := 0x0C) (i := .wrIrqPend m) rfl s, h.drun, h.dperiod, h.dcnt⟩

/-- A run of ticks and acknowledges completes and counts its ticks. -/
theorem runEvents_afterTicks {d : Word} {n : Nat} {s : State} {es : List Event} (hd : d ≠ 0#32) (h : AfterTicks d n s)
    (hes : ∀ e ∈ es, e = .dispTick ∨ ∃ m, e = .hostWrite 4 0x0C m) :
    ∃ t, runEvents es s = .next t ∧ AfterTicks d (n + es.count .dispTick) t := by
  induction es generalizing n s with
  | nil => exact ⟨s, rfl, h⟩
  | cons e es ih =>
    obtain ⟨he, hrest⟩ := List.forall_mem_cons.1 hes
    rcases he with rfl | ⟨m, rfl⟩
    · rw [runEvents_cons_of_next es rfl, List.count_cons_self, Nat.add_comm _ 1, ← Nat.add_assoc]
      exact ih (afterTicks_onDispTick hd h) hrest
    · obtain ⟨t, ht, hack⟩ := afterTicks_ack m h
      rw [runEvents_cons_of_next es ht, List.count_cons_of_ne (by simp)]
      exact ih hack hrest

/-- After a run that completes, the later events run from the state it leaves. -/
theorem runEvents_append_of_next {es : List Event} {s t : State} (rest : List Event) (h : runEvents es s = .next t) :
    runEvents (es ++ rest) s = runEvents rest t := by
  induction es generalizing s with
  | nil => cases h; rfl
  | cons e es ih =>
    cases he : runEvent e s with
    | next u =>
      rw [runEvents_cons_of_next es he] at h
      rw [List.cons_append, runEvents_cons_of_next _ he, ih h]
    | fault f => simp [runEvents, he] at h
    | refused r => simp [runEvents, he] at h

/-- Settles O27: the init starts the count of the ticks at 0, the run keeps it, and it says what the next tick does. -/
theorem wrapsComeEveryPeriod : Obligations.WrapsComeEveryPeriod := by
  intro s u d es hd hinit hes
  have hstart : AfterTicks d 0 u := by
    rw [exec_dispInit hd] at hinit
    cases hinit
    exact ⟨rfl, rfl, (Nat.zero_mod _).symm⟩
  obtain ⟨t, ht, hcount⟩ := runEvents_afterTicks hd hstart hes
  rw [Nat.zero_add] at hcount
  refine ⟨t, ht, hcount.dcnt, onDispTick t, runEvents_append_of_next _ ht, ?_⟩
  rcases onDispTick_of_afterTicks hd hcount with ⟨hmod, htick⟩ | ⟨hmod, htick, _⟩
  · rw [htick]
    exact ⟨fun _ => ⟨rfl, rfl⟩, fun hne => absurd hmod hne⟩
  · rw [htick]
    exact ⟨fun h0 => absurd h0 hmod, fun _ => ⟨rfl, rfl⟩⟩

end Sys2Proof.Machine
end

section
/-! The family 42_collision.md: what a sample does with and without a qualifying edge (R221, R222, R228), and the runs of
samples that hold none: those of a latched episode (R224) and those in which the armed lines stay low (R226). -/

namespace Sys2Proof.Machine

/-! ## The commands (R220, R223) -/

/-- Settles O28: `mon.init` has this one outcome. -/
theorem monInitLoadsTheArmMask : Obligations.MonInitLoadsTheArmMask := by
  intro s mask
  rfl

/-- Settles O29: `latch.clear` has this one outcome. -/
theorem latchClearKeepsBitmapAndPending : Obligations.LatchClearKeepsBitmapAndPending := by
  intro s
  rfl

/-! ## The qualifying edge (R221) -/

/-- The sample `lv`, taken after the levels `p`, holds a qualifying edge in `s`: the latch is clear and an armed line falls. -/
def QualifyingEdge (s : State) (p lv : Byte) : Prop := s.latch = false ∧ falls p lv &&& s.arm ≠ 0#8

theorem ne_zero_iff_exists_getLsbD {w : Nat} (x : BitVec w) : x ≠ 0#w ↔ ∃ i < w, x.getLsbD i = true := by
  simp only [ne_eq, BitVec.zero_iff_eq_false, not_forall, Bool.not_eq_false]
  exact exists_congr fun _ => ⟨fun hbit => ⟨BitVec.lt_of_getLsbD hbit, hbit⟩, And.right⟩

/-- The qualifying edge, line by line. -/
theorem qualifyingEdge_iff (s : State) (p lv : Byte) :
    QualifyingEdge s p lv
      ↔ s.latch = false ∧ ∃ i < 8, p.getLsbD i = true ∧ lv.getLsbD i = false ∧ s.arm.getLsbD i = true := by
  have hline : ∀ i < 8, (falls p lv &&& s.arm).getLsbD i = true
      ↔ p.getLsbD i = true ∧ lv.getLsbD i = false ∧ s.arm.getLsbD i = true := by
    intro i hi
    simp [falls, hi, and_assoc]
  rw [QualifyingEdge, ne_zero_iff_exists_getLsbD]
  exact and_congr_right fun _ => exists_congr fun i => and_congr_right (hline i)

theorem not_qualifyingEdge_of_latched {s : State} (hl : s.latch = true) (p lv : Byte) : ¬ QualifyingEdge s p lv := by
  rintro ⟨hclear, _⟩
  simp [hl] at hclear

/-- An armed line that is already low does not fall. -/
theorem not_qualifyingEdge_of_armed_low {s : State} {p : Byte} (hp : p &&& s.arm = 0#8) (lv : Byte) :
    ¬ QualifyingEdge s p lv := by
  rintro ⟨_, hfall⟩
  apply hfall
  calc falls p lv &&& s.arm
    _ = (p &&& s.arm) &&& ~~~lv := by rw [falls, BitVec.and_assoc, BitVec.and_comm (~~~lv), BitVec.and_assoc]
    _ = 0#8 := by rw [hp, BitVec.zero_and]

/-! ## One sample (R222, R228) -/

theorem onSample_of_qualifyingEdge {s : State} {lv : Byte} (h : QualifyingEdge s s.prevLv lv) :
    onSample lv s = { s with prevLv := lv, latch := true, bitmap := ~~~lv, bumpPend := true } := if_pos h

theorem onSample_of_not_qualifyingEdge {s : State} {lv : Byte} (h : ¬ QualifyingEdge s s.prevLv lv) :
    onSample lv s = { s with prevLv := lv } := if_neg h

/-- Settles O30: a sample with a qualifying edge captures the complement of its levels, any other becomes the levels only. -/
theorem sampleSetsTheLatchOnAFallingEdge : Obligations.SampleSetsTheLatchOnAFallingEdge := by
  intro s es lv hin
  refine ⟨onSample lv { s with inputs := es }, step_of_inputs hin, ?_⟩
  rw [← qualifyingEdge_iff]
  by_cases hedge : QualifyingEdge s s.prevLv lv
  · rw [onSample_of_qualifyingEdge (s := { s with inputs := es }) hedge]
    exact ⟨rfl, fun _ => ⟨rfl, rfl, fun i hi => by simp [hi], rfl⟩, fun hno => absurd hedge hno⟩
  · rw [onSample_of_not_qualifyingEdge (s := { s with inputs := es }) hedge]
    exact ⟨rfl, fun hyes => absurd hyes hedge, fun _ => rfl⟩

/-! ## Runs of samples without a qualifying edge (R224 to R226) -/

/-- Settles O31: only a sample that finds the latch clear, and the reset, which clears it, write the bitmap. -/
theorem bitmapIsConstantWhileLatched : Obligations.BitmapIsConstantWhileLatched := by
  intro s t hs h ht
  cases latchStep_of_step h with
  | kept _ hb => exact hb
  | clear _ _ hb => exact hb
  | set _ _ hs' => simp [hs] at hs'
  | reset _ hl => simp [hl] at ht

/-- Samples none of which holds a qualifying edge after the one before it change nothing but the previous levels. -/
theorem runEvents_samples_of_isChain {s : State} {lvs : List Byte}
    (h : (s.prevLv :: lvs).IsChain fun p lv => ¬ QualifyingEdge s p lv) :
    runEvents (lvs.map .sample) s = .next { s with prevLv := lvs.getLastD s.prevLv } := by
  induction lvs generalizing s with
  | nil => rfl
  | cons lv lvs ih =>
    obtain ⟨hfirst, hrest⟩ := List.isChain_cons_cons.1 h
    have hsample : runEvent (.sample lv) s = .next { s with prevLv := lv } :=
      congrArg _ (onSample_of_not_qualifyingEdge hfirst)
    rw [List.map_cons, runEvents_cons_of_next _ hsample, ih hrest, List.getLastD_cons]

/-- Settles O32: in a latched state no sample holds a qualifying edge. -/
theorem laterEdgesOfAnEpisodeAreIgnored : Obligations.LaterEdgesOfAnEpisodeAreIgnored := by
  intro s lvs hl
  have hpairs := List.pairwise_of_forall (l := s.prevLv :: lvs) (not_qualifyingEdge_of_latched hl)
  exact ⟨_, runEvents_samples_of_isChain hpairs.isChain, rfl⟩

/-- Settles O33: no sample holds a qualifying edge after levels in which every armed line is low. -/
theorem heldLinesStartNoEpisode : Obligations.HeldLinesStartNoEpisode := by
  intro s lvs _ hprev hlow
  have hall : ∀ p ∈ s.prevLv :: lvs, p &&& s.arm = 0#8 := List.forall_mem_cons.2 ⟨hprev, hlow⟩
  have hpairs : (s.prevLv :: lvs).Pairwise fun p lv => ¬ QualifyingEdge s p lv :=
    List.pairwise_of_forall_mem_list fun p hp lv _ => not_qualifyingEdge_of_armed_low (hall p hp) lv
  exact ⟨_, runEvents_samples_of_isChain hpairs.isChain, rfl⟩

end Sys2Proof.Machine
end

section
/-! The family 43_motor.md: what the motor commands leave (R251 to R257), and what writes the direction outputs (R250). -/

namespace Sys2Proof.Machine

/-! ## The commands (R252 to R257) -/

/-- Setting the directions and writing both duties leaves a row of R257's table: the duties go through the clamp of channel 0. -/
theorem motorLeaves_setDirections_writeMotorDuties (s : State) (dl dr : Bool) (l r : Half) :
    MotorLeaves s ((s.setDirections dl dr).writeMotorDuties l r) dl dr l r :=
  ⟨rfl, rfl, clamp_toNat l s.pwm0.period, clamp_toNat r s.pwm0.period, rfl⟩

/-- A duty of 0 is within every period, so the clamp keeps it (R256). -/
theorem writeMotorDuties_zero (s : State) :
    s.writeMotorDuties 0#16 0#16 = { s with pwm0 := { s.pwm0 with shadow := ⟨0#16, 0#16⟩ } } := by
  simp [State.writeMotorDuties, PwmChannel.writeShadow, DutyPair.set]

/-- Settles O36: the four driving commands set their own directions and write the duties, `mot.stop` writes duties of 0. -/
theorem motorCommandsFollowTheTable : Obligations.MotorCommandsFollowTheTable := by
  intro s l r
  have hrow := fun dl dr => motorLeaves_setDirections_writeMotorDuties s dl dr l r
  exact ⟨⟨_, rfl, hrow false false⟩, ⟨_, rfl, hrow true true⟩, ⟨_, rfl, hrow true false⟩, ⟨_, rfl, hrow false true⟩,
    congrArg Host.Outcome.next (writeMotorDuties_zero s)⟩

/-! ## What writes the directions (R250) -/

/-- What a step does about the two directions: it keeps both, commits a command that sets them, or is the reset. -/
inductive DirectionStep (s t : State) : Prop where
  | kept (hl : t.dirL = s.dirL) (hr : t.dirR = s.dirR)
  | motDrive (i : Instr) (l r : Half) (hi : i = .motFwd l r ∨ i = .motBwd l r ∨ i = .motLeft l r ∨ i = .motRight l r)
      (hc : Commits s i)
  | reset (he : s.nextEvent = .reset)

theorem directionStep_of_step {s t : State} (h : step s = .next t) : DirectionStep s t := by
  cases stepCase_of_step h with
  | reset he => exact .reset he
  | command v i t hc hx =>
    cases hx with
    | motDrive _ dl dr l r hi => exact .motDrive i l r hi hc
    | _ => exact .kept (by simp) (by simp)
  | _ => exact .kept (by simp [onPwmTick]) (by simp [onPwmTick])

/-- Settles O37: only the reset and the driving commands do not keep both directions. -/
theorem directionsChangeOnlyByMotorCommands : Obligations.DirectionsChangeOnlyByMotorCommands := by
  intro s t h hne
  cases directionStep_of_step h with
  | kept hl hr => exact absurd hne (not_or.2 ⟨not_not.2 hl, not_not.2 hr⟩)
  | motDrive i l r hi hc => exact .inr ⟨l, r, by rcases hi with rfl | rfl | rfl | rfl <;> simp [hc]⟩
  | reset he => exact .inl he

end Sys2Proof.Machine
end

section
/-! The family 44_host_access.md: the writes (R280, R281, R285 to R287), the read of the register map (R284), and `nop`
(R283). -/

namespace Sys2Proof.Machine

/-! ## Bit fields and access words as numbers -/

/-- A concatenation as a number: the high part above the low part. -/
theorem toNat_append_eq_mul_add {m n : Nat} (x : BitVec m) (y : BitVec n) :
    (x ++ y).toNat = x.toNat * 2 ^ n + y.toNat := by
  rw [BitVec.toNat_append, ← Nat.shiftLeft_add_eq_or_of_lt y.isLt, Nat.shiftLeft_eq]

theorem toNat_ofBool_eq_bit (b : Bool) : (BitVec.ofBool b).toNat = bit b := by
  cases b <;> rfl

/-- Bit `i` of the data of a write, as its value is divided and reduced. -/
theorem getLsbD_eq_decide_div_mod {w : Nat} (v : BitVec w) (i : Nat) :
    v.getLsbD i = decide (v.toNat / 2 ^ i % 2 = 1) :=
  Nat.testBit_eq_decide_div_mod_eq

theorem accessWord_eq_ofNat (write : Bool) (off : Byte) :
    accessWord write off = BitVec.ofNat 9 ((if write then 0x100 else 0) + off.toNat) := by
  rw [← toNat_accessWord, BitVec.ofNat_toNat, BitVec.setWidth_eq]

/-! ## CMD_HI (R281, R282) -/

/-- Settles O40: the word is the staged one, which the write executes or rejects. -/
theorem writeCmdHiExecutesTheCommand : Obligations.WriteCmdHiExecutesTheCommand := by
  intro s v w hw
  obtain rfl : v ++ s.cmdLo = w := BitVec.eq_of_toNat_eq ((toNat_append_eq_mul_add v s.cmdLo).trans hw.symm)
  exact ⟨fun i hi => execWrCmdHi_ok hi, fun r hr => (execWrCmdHi_error hr).trans (congrArg _ (reject_eq _ r))⟩

/-- What no command writes: the staged halves, the sensor record and the host's side. -/
structure StagingKept (u t : State) : Prop where
  cmdHi : t.cmdHi = u.cmdHi
  cmdLo : t.cmdLo = u.cmdLo
  prevLv : t.prevLv = u.prevLv
  bitmap : t.bitmap = u.bitmap
  bumpPend : t.bumpPend = u.bumpPend
  busRead : t.busRead = u.busRead
  inputs : t.inputs = u.inputs
  drawn : t.drawn = u.drawn

theorem stagingKept_reject (u : State) (r : Reject) : StagingKept u (u.reject r) := by
  constructor <;> simp

theorem stagingKept_of_commandEffect {u t : State} {i : Instr} (h : CommandEffect u i t) : StagingKept u t := by
  cases h with
  | reject _ r => exact stagingKept_reject u r
  | _ => constructor <;> simp

/-- A CMD_HI write runs in the state that already holds its data, and keeps the rest of the staging. -/
theorem stagingKept_of_execWrCmdHi {v : Word} {s t : State} (h : execWrCmdHi v s = .next t) :
    StagingKept { s with cmdHi := v } t := by
  rcases execWrCmdHi_next h with ⟨r, rfl⟩ | ⟨i, _, hcmd, hx⟩
  · exact stagingKept_reject _ r
  · exact stagingKept_of_commandEffect (commandEffect_of_exec hcmd hx)

/-- Settles O41: the write completes, and neither a reject nor a command writes the fields named. -/
theorem writeCmdHiAlwaysCompletes : Obligations.WriteCmdHiAlwaysCompletes := by
  intro s v
  obtain ⟨t, ht⟩ := execWrCmdHi_completes v s
  obtain ⟨hhi, hlo, hlv, hmap, hbump, hread, hin, hdrawn⟩ := stagingKept_of_execWrCmdHi ht
  exact ⟨t, ht, hhi, hlo, hlv, hmap, hbump, hread, hin, hdrawn⟩

/-! ## The register map (R36 to R51) -/

theorem toNat_statusWord (s : State) : (statusWord s).toNat = registerValue s 0x08 := by
  simp only [statusWord, BitVec.toNat_setWidth_of_le, toNat_append_eq_mul_add, toNat_ofBool_eq_bit, registerValue,
    Nat.reduceLeDiff]
  omega

theorem toNat_irqPendWord (s : State) : (irqPendWord s).toNat = registerValue s 0x0C := by
  simp only [irqPendWord, BitVec.toNat_setWidth_of_le, toNat_append_eq_mul_add, toNat_ofBool_eq_bit, registerValue,
    Nat.reduceLeDiff]
  omega

theorem toNat_errWord (s : State) : (errWord s).toNat = registerValue s 0x10 := by
  simp only [errWord, BitVec.toNat_setWidth_of_le, toNat_append_eq_mul_add, toNat_ofBool_eq_bit, registerValue,
    Nat.reduceLeDiff, BitVec.toNat_zero]
  omega

theorem toNat_bitmapWord (s : State) : (bitmapWord s).toNat = registerValue s 0x14 := by
  simp only [bitmapWord, BitVec.toNat_setWidth_of_le, toNat_append_eq_mul_add, toNat_ofBool_eq_bit, registerValue,
    Nat.reduceLeDiff]
  omega

/-- The table of OUTPUTS is the read-back of the output pins (R50). -/
theorem registerValue_outputs (s : State) :
    registerValue s 0x48 = bit (pwmOut s .ch0 .a) + 2 * bit (pwmOut s .ch0 .b) + 4 * bit (pwmOut s .ch1 .a)
      + 8 * bit (pwmOut s .ch1 .b) + 16 * bit (dirLOut s) + 32 * bit (dirROut s) + 64 * bit (tickIrq s)
      + 128 * bit (bumpIrq s) := rfl

theorem toNat_outputsWord (s : State) : (outputsWord s).toNat = registerValue s 0x48 := by
  simp only [outputsWord, BitVec.toNat_setWidth_of_le, toNat_append_eq_mul_add, toNat_ofBool_eq_bit,
    registerValue_outputs, Nat.reduceLeDiff]
  omega

theorem toNat_dutyWord (d : DutyPair) : (dutyWord d).toNat = d.a.toNat + 65536 * d.b.toNat := by
  rw [dutyWord, toNat_append_eq_mul_add]
  omega

/-- Every offset's register reads as its table says, row by row; the last case is an offset without a row (R51). -/
theorem toNat_readReg (s : State) (off : Byte) : (readReg s off).toNat = registerValue s off.toNat := by
  unfold readReg
  split
  case h_1 h | h_2 h | h_17 h | h_18 h => rw [h]; rfl
  case h_3 h => rw [h, toNat_statusWord]
  case h_4 h => rw [h, toNat_irqPendWord]
  case h_5 h => rw [h, toNat_errWord]
  case h_6 h => rw [h, toNat_bitmapWord]
  case h_7 h | h_8 h | h_9 h | h_10 h | h_13 h | h_14 h => rw [h, BitVec.toNat_setWidth_of_le (by decide)]; rfl
  case h_11 h | h_12 h | h_15 h | h_16 h => rw [h, toNat_dutyWord]; rfl
  case h_19 h => rw [h, toNat_outputsWord]
  case h_20 => simp_all [registerValue]

/-- Settles O46: an aligned read leaves the register's value with the host, and the value is the table's. -/
theorem readReturnsTheRegisterMap : Obligations.ReadReturnsTheRegisterMap := by
  intro s off hm
  have ha : aligned off = true := by simpa [aligned] using hm
  rw [← toNat_readReg, BitVec.ofNat_toNat, BitVec.setWidth_eq, encode, accessWord_eq_ofNat false,
    if_neg Bool.false_ne_true, Nat.zero_add]
  exact ⟨execRead_eq_next_iff.mpr ⟨ha, rfl⟩, (readReg s off).isLt, rfl⟩

/-! ## `nop` (R283) -/

/-- A word with opcode 0 is on the row of `nop`, whose one legal word is 0. -/
theorem decodeCommand_of_fieldOp_zero {w : DWord} (hop : fieldOp w = 0x00) :
    decodeCommand w = if w = 0#64 then .ok .nop else .error .rsvd := by
  have hrow : opcodeRow (fieldOp w) w = some (.fn, .nop) := by rw [hop]; rfl
  have hrsv : w &&& rsvMask .fn = 0#64 ↔ w = 0#64 :=
    ⟨fun h => by rw [← wordFN_fields h, hop]; rfl, fun h => by rw [h, BitVec.zero_and]⟩
  simp only [decodeCommand_of_opcodeRow hrow, hrsv]

/-- Settles O38: the zero word decodes to `nop`, which keeps the state, and every other word of opcode 0 is reserved. -/
theorem nopChangesNothing : Obligations.NopChangesNothing := by
  refine ⟨rfl, fun _ => rfl, fun w hw => ?_, fun s hlo => ?_⟩
  · exact decodeCommand_of_fieldOp_zero (BitVec.eq_of_toNat_eq ((fieldOp_toNat w).trans hw))
  · have hd : decodeCommand (0#32 ++ s.cmdLo) = .ok .nop := by rw [hlo]; rfl
    exact execWrCmdHi_ok hd

/-! ## The other writes (R280, R285 to R287) -/

/-- Settles O39: the write has this one outcome. -/
theorem writeCmdLoStoresTheLowHalf : Obligations.WriteCmdLoStoresTheLowHalf := by
  intro s v
  exact ⟨rfl, rfl⟩

/-- Write-one-to-clear of one flag. -/
theorem and_not_decide_eq_ite (flag : Bool) (p : Prop) [Decidable p] : (flag && !decide p) = if p then false else flag := by
  split <;> simp [*]

/-- Settles O43: each of the three flags is cleared by its own bit of the data. -/
theorem writeIrqPendClearsSelectedFlags : Obligations.WriteIrqPendClearsSelectedFlags := by
  intro s v
  refine ⟨rfl, ?_⟩
  simp only [exec, execWrIrqPend, getLsbD_eq_decide_div_mod, and_not_decide_eq_ite, Nat.pow_zero, Nat.div_one, Nat.pow_one,
    Nat.reducePow]

/-- Settles O44: bit 0 of the data alone decides. -/
theorem writeErrClearsTheRecord : Obligations.WriteErrClearsTheRecord := by
  intro s v
  have hbit : v.getLsbD 0 = true ↔ v.toNat % 2 = 1 := by
    rw [getLsbD_eq_decide_div_mod, decide_eq_true_iff, Nat.pow_zero, Nat.div_one]
  refine ⟨rfl, fun h1 => ?_, fun h0 => ?_⟩
  · rw [exec, execWrErr, if_pos (hbit.2 h1)]
    rfl
  · rw [exec, execWrErr, if_neg (mt hbit.1 (by omega))]

/-- Settles O45: the write is an instruction of the table, so it completes, and it has changed nothing. -/
theorem otherWritesAreIgnored : Obligations.OtherWritesAreIgnored := by
  intro s off v hm h00 h04 h0C h10
  have hwf : (Instr.wrIgnored off v).wellFormed = true := by
    simp [Instr.wellFormed, aligned, hasOwnWriteRow, hm, h00, h04, h0C, h10]
  obtain ⟨t, ht⟩ := exec_completes_of_wellFormed hwf s
  obtain rfl : t = s := eq_of_execWrIgnored (v := v) ht
  exact ⟨by rw [encode, accessWord_eq_ofNat true, if_pos rfl], ht⟩

end Sys2Proof.Machine
end

section
/-! The family 60_exceptions.md: the error record (R310, R311) and the two interrupt lines (R312, R313). A step is read through
what it does to the record (`ErrStep`) and to a line (`LineStep`); the operand checks of a command are said once, in
`operandReject`. -/

namespace Sys2Proof.Machine

/-! ## What a step does to the error record (R310) -/

/-- Every way a step leaves the error record: kept, written by a reject, or cleared by the host or the reset. -/
inductive ErrStep (s t : State) : Prop where
  | kept (herr : t.err = s.err) (hcode : t.errCode = s.errCode)
  | reject (r : Reject) (herr : t.err = true) (hcode : t.errCode = if s.err then s.errCode else r.code)
  | cleared (v : Word) (he : s.nextEvent = .hostWrite 4 0x10 v) (hv : v.getLsbD 0 = true) (herr : t.err = false)
      (hcode : t.errCode = 0#4)
  | reset (he : s.nextEvent = .reset) (herr : t.err = false) (hcode : t.errCode = 0#4)

theorem errStep_of_step {s t : State} (h : step s = .next t) : ErrStep s t := by
  cases stepCase_of_step h with
  | reset he => exact .reset he rfl rfl
  | clearErr v he hv => exact .cleared v he hv rfl rfl
  | reject v r he => exact .reject r (by simp) (by simp)
  | command v i t hc hx =>
    cases hx with
    | reject _ r => exact .reject r (by simp) (by simp)
    | _ => exact .kept (by simp) (by simp)
  | _ => exact .kept (by simp [onPwmTick]) (by simp [onPwmTick])

/-- A reject records one of the codes of R311. -/
theorem code_bounds (r : Reject) : 1 ≤ r.code.toNat ∧ r.code.toNat ≤ 6 := by
  cases r <;> decide

/-- Settles O53: a reject writes a legal code into a clear record, and the other cases keep the record or clear all of it. -/
theorem everyStepKeepsTheErrorRecordLegal : Obligations.EveryStepKeepsTheErrorRecordLegal := by
  intro s t ⟨hclear, hset⟩ h
  cases errStep_of_step h with
  | kept herr hcode => rw [ErrInv, herr, hcode]; exact ⟨hclear, hset⟩
  | cleared v he hv herr hcode => simp [ErrInv, herr, hcode]
  | reset he herr hcode => simp [ErrInv, herr, hcode]
  | reject r herr hcode =>
    refine ⟨fun hf => absurd hf (by simp [herr]), fun _ => ?_⟩
    rw [hcode]
    split
    · next hs => exact hset hs
    · exact code_bounds r

/-- Bit 0 of the data of a write, as its parity. -/
theorem getLsbD_zero_iff {w : Nat} (v : BitVec w) : v.getLsbD 0 = true ↔ v.toNat % 2 = 1 := by
  rw [getLsbD_eq_decide_div_mod, decide_eq_true_iff, Nat.pow_zero, Nat.div_one]

/-- Settles O48: a reject on a set record keeps its code; only the host's clear and the reset change it. -/
theorem errorRecordIsSticky : Obligations.ErrorRecordIsSticky := by
  intro s t hs h
  cases errStep_of_step h with
  | kept herr hcode => exact .inl ⟨herr.trans hs, hcode⟩
  | reject r herr hcode => exact .inl ⟨herr, hcode.trans (if_pos hs)⟩
  | cleared v he hv => exact .inr (.inr ⟨v, he, (getLsbD_zero_iff v).1 hv⟩)
  | reset he => exact .inr (.inl he)

/-! ## The operand checks of a command (R116, R311) -/

/-- The first operand check that a decoded command fails, in the order of R311. -/
def operandReject (i : Instr) : Option Reject :=
  match i with
  | .pwmInit ch period _ _ => if 1 < ch.toNat then some .badCh else if period = 0#16 then some .zeroPeriod else none
  | .pwmUpdate ch idx _ => if 1 < ch.toNat then some .badCh else if 1 < idx.toNat then some .badIdx else none
  | .pwmStop ch => if 1 < ch.toNat then some .badCh else none
  | .dispInit dperiod => if dperiod = 0#32 then some .zeroDperiod else none
  | _ => none

/-- A CH field of at most 1 names a channel. -/
theorem exists_chanField_of_not_lt {ch : Byte} (h : ¬ 1 < ch.toNat) : ∃ c, ch = chanField c := by
  obtain h0 | h1 : ch.toNat = 0 ∨ ch.toNat = 1 := by omega
  · exact ⟨.ch0, BitVec.eq_of_toNat_eq h0⟩
  · exact ⟨.ch1, BitVec.eq_of_toNat_eq h1⟩

/-- An IDX field of at most 1 names an output. -/
theorem exists_outField_of_not_lt {idx : Byte} (h : ¬ 1 < idx.toNat) : ∃ o, idx = outField o := by
  obtain h0 | h1 : idx.toNat = 0 ∨ idx.toNat = 1 := by omega
  · exact ⟨.a, BitVec.eq_of_toNat_eq h0⟩
  · exact ⟨.b, BitVec.eq_of_toNat_eq h1⟩

/-- A command that fails an operand check is rejected with that check's code. -/
theorem exec_of_operandReject {i : Instr} {r : Reject} (h : operandReject i = some r) (s : State) :
    exec i s = .next (s.reject r) := by
  cases i with
  | pwmInit ch period a b =>
    simp only [operandReject] at h
    split at h
    · next hch => cases h; simp [exec, execPwmInit, chanOf_eq_none hch]
    · next hch =>
      obtain ⟨c, rfl⟩ := exists_chanField_of_not_lt hch
      split at h
      · next hp => cases h; rw [hp, exec_pwmInit_zero]
      · cases h
  | pwmUpdate ch idx v =>
    simp only [operandReject] at h
    split at h
    · next hch => cases h; simp [exec, execPwmUpdate, chanOf_eq_none hch]
    · next hch =>
      obtain ⟨c, rfl⟩ := exists_chanField_of_not_lt hch
      split at h
      · next hidx => cases h; simp [exec, execPwmUpdate, outOf_eq_none hidx]
      · cases h
  | pwmStop ch =>
    simp only [operandReject] at h
    split at h
    · next hch => cases h; simp [exec, execPwmStop, chanOf_eq_none hch]
    · cases h
  | dispInit d =>
    simp only [operandReject] at h
    split at h
    · next hd => cases h; rw [hd, exec_dispInit_zero]
    · cases h
  | _ => cases h

/-- A command that passes its operand checks completes and leaves the error record as it is. -/
theorem exec_keeps_err_of_operandReject {i : Instr} (hc : isCommand i = true) (h : operandReject i = none) (s : State) :
    ∃ t, exec i s = .next t ∧ t.err = s.err ∧ t.errCode = s.errCode := by
  cases i with
  | pwmInit ch period a b =>
    obtain ⟨hch, hp⟩ : ¬ 1 < ch.toNat ∧ period ≠ 0#16 := by simpa [operandReject, ite_eq_iff] using h
    obtain ⟨c, rfl⟩ := exists_chanField_of_not_lt hch
    exact ⟨_, exec_pwmInit hp c a b s, setChan_err s c _, setChan_errCode s c _⟩
  | pwmUpdate ch idx v =>
    obtain ⟨hch, hidx⟩ : ¬ 1 < ch.toNat ∧ ¬ 1 < idx.toNat := by simpa [operandReject, ite_eq_iff] using h
    obtain ⟨c, rfl⟩ := exists_chanField_of_not_lt hch
    obtain ⟨o, rfl⟩ := exists_outField_of_not_lt hidx
    exact ⟨_, exec_pwmUpdate c o v s, setChan_err s c _, setChan_errCode s c _⟩
  | pwmStop ch =>
    have hch : ¬ 1 < ch.toNat := by simpa [operandReject] using h
    obtain ⟨c, rfl⟩ := exists_chanField_of_not_lt hch
    exact ⟨_, exec_pwmStop c s, setChan_err s c _, setChan_errCode s c _⟩
  | dispInit d =>
    have hd : d ≠ 0#32 := by simpa [operandReject] using h
    exact ⟨_, exec_dispInit hd s, rfl, rfl⟩
  | wrCmdLo v | wrCmdHi v | wrIrqPend v | wrErr v | wrIgnored off v | read off => cases hc
  | _ => exact ⟨_, rfl, rfl, rfl⟩

/-- A failing operand check writes the record as `withReject` says, with the code of R311. -/
theorem exec_eq_withReject {i : Instr} {r : Reject} (h : operandReject i = some r) (s : State) :
    exec i s = .next (withReject r.code.toNat s) :=
  (exec_of_operandReject h s).trans (congrArg _ (reject_eq s r))

/-- Settles O18: each clause names the first operand check that fails. -/
theorem pwmCommandsRejectBadFields : Obligations.PwmCommandsRejectBadFields := by
  intro s ch idx p a b
  refine ⟨fun hch => ⟨?_, ?_, ?_⟩, fun hch hidx => ?_, fun hch => ?_⟩
  · exact exec_eq_withReject (i := .pwmInit ch p a b) (r := .badCh) (if_pos hch) s
  · exact exec_eq_withReject (i := .pwmUpdate ch idx a) (r := .badCh) (if_pos hch) s
  · exact exec_eq_withReject (i := .pwmStop ch) (r := .badCh) (if_pos hch) s
  · exact exec_eq_withReject (i := .pwmUpdate ch idx a) (r := .badIdx) ((if_neg hch.not_gt).trans (if_pos hidx)) s
  · exact exec_eq_withReject (i := .pwmInit ch 0#16 a b) (r := .zeroPeriod) ((if_neg hch.not_gt).trans (if_pos rfl)) s

/-! ## The first failing check of a command word (R311) -/

/-- The reject a committed word takes: the decoder's, or else its first failing operand check. -/
def commandReject (w : DWord) : Option Reject :=
  match decodeCommand w with
  | .error r => some r
  | .ok i => operandReject i

/-- The code recorded for a reject, 0 for none. -/
def codeOrZero (r : Option Reject) : Nat :=
  match r with
  | none => 0
  | some r => r.code.toNat

@[simp] theorem codeOrZero_none : codeOrZero none = 0 := rfl

@[simp] theorem codeOrZero_some (r : Reject) : codeOrZero (some r) = r.code.toNat := rfl

/-- No reject records the code 0. -/
theorem codeOrZero_eq_zero_iff {r : Option Reject} : codeOrZero r = 0 ↔ r = none := by
  cases r with
  | none => exact iff_of_true rfl rfl
  | some r => exact iff_of_false (Nat.ne_of_gt (code_bounds r).1) nofun

/-- A field of a word as a number. -/
theorem toNat_extractLsb' (w : DWord) (lsb n : Nat) : (w.extractLsb' lsb n).toNat = w.toNat / 2 ^ lsb % 2 ^ n := by
  rw [BitVec.extractLsb'_toNat, Nat.shiftRight_eq_div_pow]

theorem fieldCh_toNat (w : DWord) : (fieldCh w).toNat = w.toNat / 2 ^ 48 % 2 ^ 8 := toNat_extractLsb' w 48 8

theorem fieldIdx_toNat (w : DWord) : (fieldIdx w).toNat = w.toNat / 2 ^ 40 % 2 ^ 8 := toNat_extractLsb' w 40 8

theorem fieldPeriod_toNat (w : DWord) : (fieldPeriod w).toNat = w.toNat / 2 ^ 32 % 2 ^ 16 := toNat_extractLsb' w 32 16

theorem fieldDperiod_toNat (w : DWord) : (fieldDperiod w).toNat = w.toNat % 2 ^ 32 := by
  rw [fieldDperiod, toNat_extractLsb', Nat.pow_zero, Nat.div_one]

/-- The table of masks, looked up by a word's opcode, is the opcode map's row. -/
theorem opcodeMasks_lookup_word (w : DWord) :
    opcodeMasks.lookup (w.toNat / 2 ^ 56) = (opcodeRow (fieldOp w) w).map fun row => rsvMask row.1 := by
  rw [← fieldOp_toNat, opcodeMasks_lookup (fieldOp w) w]

/-- The field checks of R311 on a word of opcode `op`, as `firstFailure` makes them after the decoder's checks. -/
def fieldFailure (op : Nat) (w : DWord) : Nat :=
  if (op = 0x10 ∨ op = 0x11 ∨ op = 0x12) ∧ 1 < (fieldCh w).toNat then 3
  else if op = 0x11 ∧ 1 < (fieldIdx w).toNat then 4
  else if op = 0x10 ∧ (fieldPeriod w).toNat = 0 then 5
  else if op = 0x20 ∧ (fieldDperiod w).toNat = 0 then 6
  else 0

theorem firstFailure_of_unlisted {w : DWord} (hrow : opcodeRow (fieldOp w) w = none) : firstFailure w = 1 := by
  simp only [firstFailure, opcodeMasks_lookup_word, hrow, Option.map_none]

theorem firstFailure_of_listed {w : DWord} {f : Format} {i : Instr} (hrow : opcodeRow (fieldOp w) w = some (f, i)) :
    firstFailure w = if w &&& rsvMask f ≠ 0#64 then 2 else fieldFailure (fieldOp w).toNat w := by
  simp only [firstFailure, opcodeMasks_lookup_word, hrow, Option.map_some, fieldFailure, fieldOp_toNat, fieldCh_toNat,
    fieldIdx_toNat, fieldPeriod_toNat, fieldDperiod_toNat]

/-- The field checks of a listed opcode are the operand checks of its command. -/
theorem fieldFailure_eq_operandReject {op : Byte} {w : DWord} {f : Format} {i : Instr}
    (hrow : opcodeRow op w = some (f, i)) : fieldFailure op.toNat w = codeOrZero (operandReject i) := by
  unfold opcodeRow at hrow
  split at hrow
  case h_14 => cases hrow
  all_goals
    next hop =>
    cases hrow
    simp [fieldFailure, hop, operandReject, apply_ite codeOrZero, Reject.code, ← BitVec.toNat_inj]

/-- `firstFailure` reads the code of the reject that the decoder or the command's operand checks give. -/
theorem firstFailure_eq (w : DWord) : firstFailure w = codeOrZero (commandReject w) := by
  cases hrow : opcodeRow (fieldOp w) w with
  | none =>
    rw [firstFailure_of_unlisted hrow, commandReject, decodeCommand, hrow]
    rfl
  | some row =>
    obtain ⟨f, i⟩ := row
    rw [firstFailure_of_listed hrow, commandReject, decodeCommand_of_opcodeRow hrow]
    by_cases hrsv : w &&& rsvMask f = 0#64
    · rw [if_neg (not_not.2 hrsv), if_pos hrsv, fieldFailure_eq_operandReject hrow]
    · rw [if_pos hrsv, if_neg hrsv]
      rfl

/-- A CMD_HI write of a word that fails a check. -/
theorem execWrCmdHi_of_commandReject {s : State} {v : Word} {r : Reject} (h : commandReject (v ++ s.cmdLo) = some r) :
    execWrCmdHi v s = .next (withReject r.code.toNat { s with cmdHi := v }) := by
  unfold commandReject at h
  split at h
  · next hd => cases h; rw [execWrCmdHi_error hd, reject_eq]
  · next hd => rw [execWrCmdHi_ok hd, exec_eq_withReject h]

/-- A CMD_HI write of a word that fails no check. -/
theorem execWrCmdHi_keeps_err {s : State} {v : Word} (h : commandReject (v ++ s.cmdLo) = none) :
    ∃ t, execWrCmdHi v s = .next t ∧ t.err = s.err ∧ t.errCode = s.errCode := by
  unfold commandReject at h
  split at h
  · cases h
  · next hd => rw [execWrCmdHi_ok hd]; exact exec_keeps_err_of_operandReject (isCommand_of_decodeCommand hd) h _

/-- Settles O42: the code read off the word is the one of the reject that its commit takes. -/
theorem firstFailingCheckIsRecorded : Obligations.FirstFailingCheckIsRecorded := by
  intro s v w hw
  obtain rfl : v ++ s.cmdLo = w := BitVec.eq_of_toNat_eq ((toNat_append_eq_mul_add v s.cmdLo).trans hw.symm)
  rw [firstFailure_eq]
  cases hr : commandReject (v ++ s.cmdLo) with
  | none => exact ⟨fun hne => absurd rfl hne, fun _ => execWrCmdHi_keeps_err hr⟩
  | some r =>
    exact ⟨fun _ => execWrCmdHi_of_commandReject hr, fun h0 => nomatch codeOrZero_eq_zero_iff.1 h0⟩

/-! ## What a step does to an interrupt line (R312, R313)

Each line has a row in R313's table: the source that sets it, its bit of IRQ_PEND, and what clears it beside that bit. -/

/-- Every way a step leaves a line with bit `i` of IRQ_PEND, raised by `source` and cleared by `clears`. -/
inductive LineStep (line : State → Bool) (i : Nat) (source clears : State → Prop) (s t : State) : Prop where
  | kept (hl : line t = line s)
  | raised (hsrc : source s) (hl : line t = true)
  | acked (v : Word) (he : s.nextEvent = .hostWrite 4 0x0C v) (hl : line t = (line s && !v.getLsbD i))
  | cleared (hc : clears s) (hl : line t = false)

/-- Only the source raises a line. -/
theorem source_of_lineStep {line : State → Bool} {i : Nat} {source clears : State → Prop} {s t : State}
    (h : LineStep line i source clears s t) (hs : line s = false) (ht : line t = true) : source s := by
  cases h with
  | raised hsrc => exact hsrc
  | kept hl => simp [hl, hs] at ht
  | acked v he hl => simp [hl, hs] at ht
  | cleared hc hl => simp [hl] at ht

/-- The wrap of the running dispatcher comes at its tick (R193). -/
def TickSource (s : State) : Prop := s.nextEvent = .dispTick ∧ s.drun = true

/-- What withdraws a pending tick beside its acknowledge (R313). -/
def TickClears (s : State) : Prop :=
  s.nextEvent = .reset ∨ Commits s .dispStop ∨ ∃ d, d ≠ 0#32 ∧ Commits s (.dispInit d)

/-- A qualifying edge comes with a sample (R222). -/
def BumpSource (s : State) : Prop := ∃ lv, s.nextEvent = .sample lv

/-- What withdraws a pending collision beside its acknowledge (R313). -/
def BumpClears (s : State) : Prop := s.nextEvent = .reset

/-- Only an acknowledge of its bit, or what else clears it, lowers a line. -/
theorem clears_of_lineStep {line : State → Bool} {i : Nat} {source clears : State → Prop} {s t : State}
    (h : LineStep line i source clears s t) (hs : line s = true) (ht : line t = false) :
    clears s ∨ ∃ v : Word, s.nextEvent = .hostWrite 4 0x0C v ∧ v.toNat / 2 ^ i % 2 = 1 := by
  cases h with
  | cleared hc => exact .inl hc
  | acked v he hl => exact .inr ⟨v, he, by simpa [hl, hs, getLsbD_eq_decide_div_mod] using ht⟩
  | kept hl => simp [hl, hs] at ht
  | raised _ hl => simp [hl] at ht

theorem tickLineStep_of_step {s t : State} (h : step s = .next t) : LineStep tickIrq 0 TickSource TickClears s t := by
  unfold tickIrq
  cases stepCase_of_step h with
  | dispWrap he hr => exact .raised ⟨he, hr⟩ rfl
  | reset he => exact .cleared (.inl he) rfl
  | wrIrqPend v he => exact .acked v he rfl
  | command v i t hc hx =>
    cases hx with
    | dispInit d hd => exact .cleared (.inr (.inr ⟨d, hd, hc⟩)) rfl
    | dispStop => exact .cleared (.inr (.inl hc)) rfl
    | _ => exact .kept (by simp)
  | _ => exact .kept (by simp [onPwmTick])

theorem bumpLineStep_of_step {s t : State} (h : step s = .next t) : LineStep bumpIrq 1 BumpSource BumpClears s t := by
  unfold bumpIrq
  cases stepCase_of_step h with
  | sampleLatched lv he => exact .raised ⟨lv, he⟩ rfl
  | reset he => exact .cleared he rfl
  | wrIrqPend v he => exact .acked v he rfl
  | command v i t hc hx => exact .kept (by cases hx <;> simp)
  | _ => exact .kept (by simp [onPwmTick])

/-- Settles O49: the row of the tick line, whose bit is bit 0. -/
theorem tickLineStaysUntilCleared : Obligations.TickLineStaysUntilCleared := by
  intro s t hs h ht
  rcases clears_of_lineStep (tickLineStep_of_step h) hs ht with (hreset | hcommit) | ⟨v, he, hv⟩
  · exact .inl hreset
  · exact .inr (.inr hcommit)
  · exact .inr (.inl ⟨v, he, by simpa using hv⟩)

/-- Settles O50: the row of the collision line, whose bit is bit 1. -/
theorem bumpLineStaysUntilCleared : Obligations.BumpLineStaysUntilCleared := by
  intro s t hs h ht
  exact clears_of_lineStep (bumpLineStep_of_step h) hs ht

/-- Settles O51: each line is raised by its own source. -/
theorem eachLineHasItsOwnSource : Obligations.EachLineHasItsOwnSource := by
  intro s t h
  exact ⟨source_of_lineStep (tickLineStep_of_step h), source_of_lineStep (bumpLineStep_of_step h)⟩

end Sys2Proof.Machine
end

section
/-! The family 70_reset_and_hazards.md: the `Reset` event gives every field of the block its reset value (R350), and in that
state every output is low and every register but LEVELS reads 0 (R351). -/

namespace Sys2Proof.Machine

/-- Settles O11: the step on a placed `Reset` is `onReset` of the state without that event, which gives the block's fields
their reset values and keeps the environment's. -/
theorem resetClearsEveryField : Obligations.ResetClearsEveryField := by
  intro s es hin
  calc step s = .next (onReset { s with inputs := es }) := step_of_inputs hin
    _ = _ := rfl

@[simp] theorem chan_reset (c : Chan) : State.reset.chan c = PwmChannel.reset := by cases c <;> rfl

/-- Every PWM output is low after reset because both channels are stopped (R154). -/
theorem pwmOut_reset (c : Chan) (o : Out) : pwmOut State.reset c o = false :=
  pwmOut_of_stopped (by rw [chan_reset]; rfl) o

/-- The read-back of the output pins is 0 because every pin is low (R50). -/
theorem outputsWord_reset : outputsWord State.reset = 0 := by
  have hdirL : dirLOut State.reset = false := rfl
  have hdirR : dirROut State.reset = false := rfl
  have htick : tickIrq State.reset = false := rfl
  have hbump : bumpIrq State.reset = false := rfl
  simp [outputsWord, pwmOut_reset, hdirL, hdirR, htick, hbump]

/-- The register map of R35 in the reset state: LEVELS alone reads a field whose reset value is not 0. -/
theorem readReg_reset (off : Byte) : readReg State.reset off = if off = 0x18#8 then 0xFF else 0 := by
  split
  · next hlevels => subst hlevels; rfl
  · next hlevels =>
    unfold readReg
    split
    case h_7 h18 => exact absurd (BitVec.eq_of_toNat_eq h18) hlevels
    case h_19 => exact outputsWord_reset
    all_goals rfl

/-- Settles O12: the outputs are functions of fields that are 0, and a read leaves the register's value with the host. -/
theorem outputsLowAndRegistersReadAfterReset : Obligations.OutputsLowAndRegistersReadAfterReset := by
  refine ⟨pwmOut_reset, rfl, rfl, rfl, rfl, fun off haligned => ?_⟩
  exact ⟨_, execRead_eq_next_iff.mpr ⟨haligned, rfl⟩, congrArg some (readReg_reset off)⟩

end Sys2Proof.Machine
end
